-- ==== Sys2Proof/Word.lean ====
section
/-! DEFINITION. The word types of the stepper motor sequencer. Every quantity of the block is unsigned (00_scope.md,
section 5), and bit 0 is the least significant bit of every word. -/

namespace Sys2Proof

/-- A received command byte, `cmd[7:0]` (R44, R86). -/
abbrev Byte := BitVec 8

/-- A 4-bit excitation pattern: bit 3 coil A leg 1, bit 2 coil A leg 2, bit 1 coil B leg 1, bit 0 coil B leg 2
(R18, R34). -/
abbrev Pattern := BitVec 4

/-- A sequence position, the 3-bit index into a table of eight patterns (R13). -/
abbrev Position := BitVec 3

/-- The two bits of the register MODE. Three of the four values are drive modes (R10). -/
abbrev ModeBits := BitVec 2

/-- An address of the pattern ROM, `{MODE[1:0], POS[2:0]}` (R32). -/
abbrev RomAddress := BitVec 5

end Sys2Proof
end

