-- ==== Sys2Proof/Syntax.lean ====
section
/-! DEFINITION. The ten commands of the block: one constructor per row of spec/opcode_table.json. A command is one byte,
and no command carries an operand (R44, R47), so no constructor has an argument. The event TICK has no encoding and no
row (R51): it is `Machine.tick`. -/

namespace Sys2Proof

/-- The commands of R46, in the order of its table. -/
inductive Instr where
  /-- '0': stop (R67). -/
  | stop
  /-- '1': run forward without a bound (R68). -/
  | runf
  /-- '2': run in reverse without a bound (R69). -/
  | runr
  /-- '3': one rotation forward (R70). -/
  | onef
  /-- '4': one rotation in reverse (R71). -/
  | oner
  /-- 'a': select the wave table (R73). -/
  | mwave
  /-- 's': select the full-step table (R74). -/
  | mfull
  /-- 'd': select the half-step table (R75). -/
  | mhalf
  /-- 'q': lengthen the tick interval (R77). -/
  | slower
  /-- 'w': shorten the tick interval (R78). -/
  | faster
  deriving DecidableEq, Repr

end Sys2Proof
end

