-- ==== Sys2Proof/Decode.lean ====
section
/-! DEFINITION. The command decoder and the encoder (R44 to R52). The byte values are ASCII codes: PRESUMED (log entry
3; the spec's decision D27). -/

namespace Sys2Proof

/-- What a byte decodes to: a command, or `ignore`, the name R52 gives to each of the 246 unrecognised bytes. -/
inductive Decoded where
  | instr (i : Instr)
  | ignore
  deriving DecidableEq, Repr

/-- The decoder of R52, total on all 256 bytes: the whole byte is compared (R44, R46). -/
def decode (b : Byte) : Decoded :=
  if b = 0x30#8 then .instr .stop
  else if b = 0x31#8 then .instr .runf
  else if b = 0x32#8 then .instr .runr
  else if b = 0x33#8 then .instr .onef
  else if b = 0x34#8 then .instr .oner
  else if b = 0x61#8 then .instr .mwave
  else if b = 0x73#8 then .instr .mfull
  else if b = 0x64#8 then .instr .mhalf
  else if b = 0x71#8 then .instr .slower
  else if b = 0x77#8 then .instr .faster
  else .ignore

/-- The byte of each command (R46, column "Binary"). -/
def encode : Instr → Byte
  | .stop => 0b00110000#8
  | .runf => 0b00110001#8
  | .runr => 0b00110010#8
  | .onef => 0b00110011#8
  | .oner => 0b00110100#8
  | .mwave => 0b01100001#8
  | .mfull => 0b01110011#8
  | .mhalf => 0b01100100#8
  | .slower => 0b01110001#8
  | .faster => 0b01110111#8

/-- The character an operator types for each command (R46, column "Character"; R50). -/
def character : Instr → Char
  | .stop => '0'
  | .runf => '1'
  | .runr => '2'
  | .onef => '3'
  | .oner => '4'
  | .mwave => 'a'
  | .mfull => 's'
  | .mhalf => 'd'
  | .slower => 'q'
  | .faster => 'w'

/-- The instruction read from an `nbits`-bit word of spec/opcode_table.json. A command is exactly one byte (R44): any
other length, and a word that does not fit a byte, is no command. -/
def decodeTableWord (nbits w : Nat) : Option Instr :=
  if nbits = 8 ∧ w < 2 ^ 8 then
    match decode (BitVec.ofNat 8 w) with
    | .instr i => some i
    | .ignore => none
  else none

end Sys2Proof
end

