-- ==== Sys2Proof/Config.lean ====
section
/-! DEFINITION. What an implementation of the block fixes: the parameters of R5. The operations of the machine take a
`Params` and a counter width as arguments; the values in force are `Machine.params` (Machine/Parameters.lean) and
`Config.W`. -/

namespace Sys2Proof

/-- The drive modes, in the document's order (R10). -/
inductive DriveMode where
  | wave
  | fullStep
  | halfStep
  deriving DecidableEq, Repr

/-- The pattern ROM's contents: 24 words of 4 bits, addresses 0 to 7 the Wave table, 8 to 15 the FullStep table,
16 to 23 the HalfStep table (R27, R32). -/
abbrev Rom := Vector Pattern 24

/-- The parameters of R5, but for the counter width (`Config.W`) and the strobe period P, which no rule of the model
uses (R66, R116). -/
structure Params where
  /-- `INIT_INTERVAL`, the reset value of TINT. -/
  initInterval : Nat
  /-- `SPEED_STEP`, what `q` adds and `w` subtracts. -/
  speedStep : Nat
  /-- `MIN_INTERVAL`, the floor of TINT under `w`. -/
  minInterval : Nat
  /-- `STEPS_PER_REV`, the steps of one rotation in Wave or FullStep mode. -/
  stepsPerRev : Nat
  /-- `ROM`, the three pattern tables. -/
  rom : Rom
  /-- `RESET_MODE`, the drive mode after reset. -/
  resetMode : DriveMode
  /-- `RESET_OUT`, the coil lines after reset. -/
  resetOut : Pattern
  deriving DecidableEq, Repr

/-- `W`, the width in bits of REM, TINT and TCNT in the machine `Machine.State`: the default of R5.
DESIGN CHOICE (log entry 1): the operations below `State` are written for every width. -/
abbrev Config.W : Nat := 32

end Sys2Proof
end

