-- ==== Sys2Proof/Machine/Parameters.lean ====
section
/-! DEFINITION. The parameter values in force: the defaults of R5 and the default ROM of R31 (DESIGN CHOICE, log
entries 1 and 2; the ROM's words and the defaults are the spec's, marked there as decisions D4, D7, D10, D11), and the
reset values of R23 that are no parameter. -/

namespace Sys2Proof.Machine

/-- The default Wave table (R31): one line on in every entry, four states twice over. -/
def defaultWave : List Pattern :=
  [0b1000#4, 0b0010#4, 0b0100#4, 0b0001#4, 0b1000#4, 0b0010#4, 0b0100#4, 0b0001#4]

/-- The default FullStep table (R31): one line of each coil on, four states twice over. -/
def defaultFullStep : List Pattern :=
  [0b1010#4, 0b0110#4, 0b0101#4, 0b1001#4, 0b1010#4, 0b0110#4, 0b0101#4, 0b1001#4]

/-- The default HalfStep table (R31): one line and two lines alternating, eight states. -/
def defaultHalfStep : List Pattern :=
  [0b1000#4, 0b1010#4, 0b0010#4, 0b0110#4, 0b0100#4, 0b0101#4, 0b0001#4, 0b1001#4]

/-- The default ROM, the three tables at the addresses of R32. -/
def defaultRom : Rom :=
  ⟨(defaultWave ++ defaultFullStep ++ defaultHalfStep).toArray, rfl⟩

/-- The parameter values in force (R5, column "Default"). -/
def params : Params where
  initInterval := 100
  speedStep := 5
  minInterval := 5
  stepsPerRev := 48
  rom := defaultRom
  resetMode := .wave
  resetOut := 0b0000#4

/-- POS after reset (R23, decision D11). -/
def resetPos : Position := 0#3

/-- REM after reset (R23, decision D11). -/
def resetRem : Nat := 0

/-- TCNT after reset: equal to TINT (R23, decision D11). -/
def resetTcnt (p : Params) : Nat := p.initInterval

/-- The two bits of MODE for each drive mode (R10, decision D5). -/
def modeBits : DriveMode → ModeBits
  | .wave => 0b00#2
  | .fullStep => 0b01#2
  | .halfStep => 0b10#2

/-- The drive mode that two bits of MODE stand for. `0b11` is not a mode (R10, R49). -/
def driveMode? (m : ModeBits) : Option DriveMode :=
  if m = 0b00#2 then some .wave
  else if m = 0b01#2 then some .fullStep
  else if m = 0b10#2 then some .halfStep
  else none

end Sys2Proof.Machine
end

