-- ==== Sys2Proof/Machine/Block.lean ====
section
/-! DEFINITION. The ten registers of the block (R9), for every counter width `W`, and their values after reset (R23).
The block has no other state (R20). -/

namespace Sys2Proof.Machine

/-- RUN, the run/stop flag (R11). -/
inductive RunFlag where
  | stopped
  | running
  deriving DecidableEq, Repr

/-- DIR, the direction (R12). -/
inductive Direction where
  | forward
  | reverse
  deriving DecidableEq, Repr

/-- ROT, the rotation mode (R14). -/
inductive RotationMode where
  | continuous
  | single
  deriving DecidableEq, Repr

/-- The block's registers (R9). MODE is held as its two bits, so that the value `0b11`, which R56 and R82 give a
meaning, can be written down (log entry 6); the three flags are enumerations, as decision D5 advises. -/
structure Block (W : Nat) where
  /-- MODE, the active drive mode (R10). -/
  mode : ModeBits
  /-- RUN (R11). -/
  run : RunFlag
  /-- DIR (R12). -/
  dir : Direction
  /-- POS, the sequence position (R13). -/
  pos : Position
  /-- ROT (R14). -/
  rot : RotationMode
  /-- REM, the remaining-step counter (R15). -/
  rem : BitVec W
  /-- TINT, the tick interval (R16). -/
  tint : BitVec W
  /-- TCNT, the tick counter (R17). -/
  tcnt : BitVec W
  /-- OUT, the coil-drive output register (R18). -/
  out : Pattern
  /-- FAULT, the sticky fault flag (R19). -/
  fault : Bool
  deriving DecidableEq, Repr

/-- The registers after reset (R23, R98). -/
def resetBlock {W : Nat} (p : Params) : Block W where
  mode := modeBits p.resetMode
  run := .stopped
  dir := .forward
  pos := resetPos
  rot := .continuous
  rem := BitVec.ofNat W resetRem
  tint := BitVec.ofNat W p.initInterval
  tcnt := BitVec.ofNat W (resetTcnt p)
  out := p.resetOut
  fault := false

end Sys2Proof.Machine
end

