-- ==== Sys2Proof/Machine/Pattern.lean ====
section
/-! DEFINITION. The Step Pattern Generator: the pattern ROM, its one read primitive, and the two pure functions
`patternFor` and `stepsForOneRotation` (R26 to R33, R53 to R56). A result `none` is "raise InvariantViolation(mode)":
the event that meets it ends in `raiseInvariantViolation` (Machine/Ops.lean). -/

namespace Sys2Proof.Machine

/-- The ROM address of a mode and a position, `{MODE, POS}` = 8 * MODE + POS (R32). -/
def romAddress (mode : ModeBits) (pos : Position) : RomAddress := mode ++ pos

/-- `MemRead(addr, 4)`: the word at an address, and no value at the addresses 24 to 31, which no word backs
(R32, R33). -/
def memRead (rom : Rom) (addr : RomAddress) : Option Pattern := rom[addr.toNat]?

/-- `patternFor(mode, position)` (R53); no value when MODE is `0b11` (R56). -/
def patternFor (rom : Rom) (mode : ModeBits) (pos : Position) : Option Pattern :=
  memRead rom (romAddress mode pos)

/-- The steps of one rotation in a drive mode: the half-step table visits twice as many positions (R54). -/
def modeSteps (wavefactor : Nat) : DriveMode → Nat
  | .wave => wavefactor
  | .fullStep => wavefactor
  | .halfStep => 2 * wavefactor

/-- `stepsForOneRotation(wavefactor)` in the present MODE, the exact number (R54); no value when MODE is `0b11`
(R56). -/
def stepsForOneRotation (mode : ModeBits) (wavefactor : Nat) : Option Nat :=
  (driveMode? mode).map (modeSteps wavefactor)

/-- Where the table of a drive mode begins in the ROM (R32). -/
def tableBase : DriveMode → Nat
  | .wave => 0
  | .fullStep => 8
  | .halfStep => 16

theorem tableBase_add_lt (m : DriveMode) (pos : Position) : tableBase m + pos.toNat < 24 := by
  have := pos.isLt
  cases m <;> simp only [tableBase] <;> omega

/-- `ROM[m][p]`: the word of a drive mode at a position (R27), read from the table itself. -/
def romWord (rom : Rom) (m : DriveMode) (pos : Position) : Pattern :=
  rom[tableBase m + pos.toNat]'(tableBase_add_lt m pos)

end Sys2Proof.Machine
end

