-- ==== Sys2Proof/Machine/Operands.lean ====
section
/-! DEFINITION. The implicit operands of the events and the arithmetic on the datapath registers (R47). Every value is
unsigned; a result is computed exactly and narrowed to the register's width at the end. -/

namespace Sys2Proof.Machine

variable {W : Nat}

/-- The count that '3' and '4' load into REM: `stepsForOneRotation(STEPS_PER_REV)` in the present MODE, at width `W`
(R54, R70, R71). No value when MODE is `0b11` (R56). -/
def rotationSteps (p : Params) (mode : ModeBits) : Option (BitVec W) :=
  (stepsForOneRotation mode p.stepsPerRev).map (BitVec.ofNat W)

/-- TINT under `q` (R77): the exact sum where it fits `W` bits, else TINT unchanged (decision D12, log entry 9). -/
def slowerInterval (p : Params) (tint : BitVec W) : BitVec W :=
  if tint.toNat + p.speedStep ≤ 2 ^ W - 1 then BitVec.ofNat W (tint.toNat + p.speedStep) else tint

/-- TINT under `w` (R78): the difference over the integers, clamped to MIN_INTERVAL (decision D13, log entry 10). -/
def fasterInterval (p : Params) (tint : BitVec W) : BitVec W :=
  if p.speedStep + p.minInterval ≤ tint.toNat then BitVec.ofNat W (tint.toNat - p.speedStep)
  else BitVec.ofNat W p.minInterval

/-- A counter one lower, modulo `2^W` (R60). For TCNT the modulus is never exercised from reset (R103; log entry 11);
for REM the decrement is guarded (R62). -/
def countDown (c : BitVec W) : BitVec W := c - 1#W

/-- The position one step on, modulo 8 (R13, R63, R64). -/
def advance : Direction → Position → Position
  | .forward, pos => pos + 1#3
  | .reverse, pos => pos - 1#3

end Sys2Proof.Machine
end

