-- ==== Sys2Proof/Machine/State.lean ====
section
/-! DEFINITION. The machine's state: the ten registers of the block and what stands at its input ports in the clock
cycles to come. -/

namespace Sys2Proof.Machine

/-- What the block's input ports show in one clock cycle (R25). -/
structure Inputs where
  /-- `rst`: reset (R98). -/
  rst : Bool
  /-- `tick`: the TICK event (R87). -/
  tick : Bool
  /-- `cmd_valid`: a received byte is presented (R86). -/
  cmdValid : Bool
  /-- `cmd[7:0]`: the received byte, meaningful only while `cmdValid`. -/
  cmd : Byte
  deriving DecidableEq, Repr

/-- The state. `block` is all the state the spec gives the machine (R9, R20). `inputs` is the MODEL's own field (DESIGN
CHOICE, log entry 4): the clock cycles that the outside world still presents, the next one first. It is no queue of the
block, which has none (R20 (b)): a statement about every state is a statement about every sequence of inputs. -/
structure State where
  block : Block Config.W
  inputs : List Inputs
  deriving DecidableEq, Repr

/-- The reasons to stop with a fault: none. Every event of the block has an effect (R84, R117); the invariant violation
of R82 is a next state with FAULT set (log entry 7). -/
inductive Fault where
  deriving DecidableEq, Repr

/-- The reasons to refuse an instruction. -/
inductive Refusal where
  /-- Raised by an arm of `exec` whose instruction has no meaning yet; no arm does. Safe: the model stops where the
  hardware goes on. -/
  | notModelled (mnemonic : String)
  deriving DecidableEq, Repr

/-- The machine right after reset (R23), with no clock cycle presented yet. -/
def State.reset : State where
  block := resetBlock params
  inputs := []

/-- What a meaning and a step answer. -/
abbrev Result := Host.Outcome State Fault Refusal

end Sys2Proof.Machine
end

