-- ==== Sys2Proof/Machine/Ops.lean ====
section
/-! DEFINITION. The named operations on registers that the events share: the invariant violation (the block's one
exceptional outcome, R82, R84), the halt, the Phase Driver (R57) and the output ports (R25). There is no trap entry and
no trap return beside the halt (R91, R92). -/

namespace Sys2Proof.Machine

variable {W : Nat}

/-- `raise InvariantViolation(mode)`: FAULT is set and every other register keeps the value it had before the event
(R82). -/
def raiseInvariantViolation (b : Block W) : Block W := { b with fault := true }

/-- The end of an event that began in `b`: its result, or, where a pattern or a step count has no value, the invariant
violation with the whole event discarded (R56, R82). -/
def orRaise (b : Block W) : Option (Block W) → Block W
  | some b' => b'
  | none => raiseInvariantViolation b

/-- An event's effect, gated by FAULT: while FAULT = 1 no event changes anything (R19, R82). -/
def unlessHalted (f : Block W → Block W) (b : Block W) : Block W :=
  if b.fault then b else f b

/-- The Phase Driver, `apply(pattern)`: all four bits of OUT together (R57, R58). -/
def applyPattern (w : Pattern) (b : Block W) : Block W := { b with out := w }

/-- The port `coil[3:0]`, equal to OUT at all times (R25). -/
def coil (b : Block W) : Pattern := b.out

/-- The port `fault`, equal to FAULT at all times (R25). -/
def faultPort (b : Block W) : Bool := b.fault

/-- The line of coil A, leg 1: what `writeCoilA1` was last given (R18, R57). -/
def coilA1 (b : Block W) : Bool := b.out.getLsbD 3

/-- The line of coil A, leg 2 (R18, R57). -/
def coilA2 (b : Block W) : Bool := b.out.getLsbD 2

/-- The line of coil B, leg 1 (R18, R57). -/
def coilB1 (b : Block W) : Bool := b.out.getLsbD 1

/-- The line of coil B, leg 2 (R18, R57). -/
def coilB2 (b : Block W) : Bool := b.out.getLsbD 0

/-- The state with other registers and the same inputs to come. -/
def State.withBlock (s : State) (b : Block Config.W) : State := { s with block := b }

/-- A command as a meaning: one atomic change of the registers, gated by FAULT, after which the machine goes on
(R2, R40, R82). -/
def command (f : Block Config.W → Block Config.W) (s : State) : Result :=
  .next (s.withBlock (unlessHalted f s.block))

end Sys2Proof.Machine
end

