-- ==== Sys2Proof/Machine/ModeCommands.lean ====
section
/-! DEFINITION. The drive-mode commands 'a', 's' and 'd' (R73 to R76): for each, its effect on the registers and its
meaning. Each writes MODE and nothing else, and none reads it. -/

namespace Sys2Proof.Machine

variable {W : Nat}

/-- MODE <- a drive mode (R73 to R75). -/
def selectMode (m : DriveMode) (b : Block W) : Block W := { b with mode := modeBits m }

/-- 'a' (R73). -/
def mwave (b : Block W) : Block W := selectMode .wave b

/-- 's' (R74). -/
def mfull (b : Block W) : Block W := selectMode .fullStep b

/-- 'd' (R75). -/
def mhalf (b : Block W) : Block W := selectMode .halfStep b

/-- The meaning of `MWAVE` (R73). -/
def execMwave (s : State) : Result := command mwave s

/-- The meaning of `MFULL` (R74). -/
def execMfull (s : State) : Result := command mfull s

/-- The meaning of `MHALF` (R75). -/
def execMhalf (s : State) : Result := command mhalf s

end Sys2Proof.Machine
end

