-- ==== Sys2Proof/Machine/RunCommands.lean ====
section
/-! DEFINITION. The run, direction and extent commands '0' to '4' (R67 to R71): for each, its effect on the registers
and its meaning. None touches POS, TCNT, OUT, TINT or MODE, and none causes a step by itself. -/

namespace Sys2Proof.Machine

variable {W : Nat}

/-- '0': RUN <- Stopped (R67). -/
def stop (b : Block W) : Block W := { b with run := .stopped }

/-- Unbounded motion in a direction, three registers at one clock edge (R68, R69). -/
def runContinuous (d : Direction) (b : Block W) : Block W :=
  { b with rot := .continuous, dir := d, run := .running }

/-- One rotation in a direction: ROT, REM, DIR and RUN as one atomic unit, REM computed from the present MODE (R40,
R70, R71); the invariant violation when MODE is `0b11` (R56). -/
def runSingle (p : Params) (d : Direction) (b : Block W) : Block W :=
  orRaise b ((rotationSteps p b.mode).map fun n =>
    { b with rot := .single, rem := n, dir := d, run := .running })

/-- '1' (R68). -/
def runf (b : Block W) : Block W := runContinuous .forward b

/-- '2' (R69). -/
def runr (b : Block W) : Block W := runContinuous .reverse b

/-- '3' (R70). -/
def onef (p : Params) (b : Block W) : Block W := runSingle p .forward b

/-- '4' (R71). -/
def oner (p : Params) (b : Block W) : Block W := runSingle p .reverse b

/-- The meaning of `STOP` (R67). -/
def execStop (s : State) : Result := command stop s

/-- The meaning of `RUNF` (R68). -/
def execRunf (s : State) : Result := command runf s

/-- The meaning of `RUNR` (R69). -/
def execRunr (s : State) : Result := command runr s

/-- The meaning of `ONEF` (R70). -/
def execOnef (s : State) : Result := command (onef params) s

/-- The meaning of `ONER` (R71). -/
def execOner (s : State) : Result := command (oner params) s

end Sys2Proof.Machine
end

