-- ==== Sys2Proof/Machine/SpeedCommands.lean ====
section
/-! DEFINITION. The speed commands 'q' and 'w' (R77 to R79): for each, its effect on the registers and its meaning.
Each writes TINT and nothing else. -/

namespace Sys2Proof.Machine

variable {W : Nat}

/-- 'q' (R77). -/
def slower (p : Params) (b : Block W) : Block W := { b with tint := slowerInterval p b.tint }

/-- 'w' (R78). -/
def faster (p : Params) (b : Block W) : Block W := { b with tint := fasterInterval p b.tint }

/-- The meaning of `SLOWER` (R77). -/
def execSlower (s : State) : Result := command (slower params) s

/-- The meaning of `FASTER` (R78). -/
def execFaster (s : State) : Result := command (faster params) s

end Sys2Proof.Machine
end

