-- ==== Sys2Proof/Machine/Dispatch.lean ====
section
/-! DEFINITION. One arm per command: the meaning `CMD(b)` applies once `b` is decoded (R52). -/

namespace Sys2Proof.Machine

def exec (i : Instr) (s : State) : Host.Outcome State Fault Refusal :=
  match i with
  | .stop => Sys2Proof.Machine.execStop s
  | .runf => Sys2Proof.Machine.execRunf s
  | .runr => Sys2Proof.Machine.execRunr s
  | .onef => Sys2Proof.Machine.execOnef s
  | .oner => Sys2Proof.Machine.execOner s
  | .mwave => Sys2Proof.Machine.execMwave s
  | .mfull => Sys2Proof.Machine.execMfull s
  | .mhalf => Sys2Proof.Machine.execMhalf s
  | .slower => Sys2Proof.Machine.execSlower s
  | .faster => Sys2Proof.Machine.execFaster s

end Sys2Proof.Machine
end

