-- ==== Sys2Proof/Machine/Scheduler.lean ====
section
/-! DEFINITION. The Motion Scheduler: the event TICK, the tick divider and the step (R60 to R66). -/

namespace Sys2Proof.Machine

variable {W : Nat}

/-- `step(DIR)`: POS moves by one in the present direction and OUT takes the pattern at the NEW position (R63, R64).
No value when MODE is `0b11` (R56). -/
def motorStep (p : Params) (b : Block W) : Option (Block W) :=
  let pos := advance b.dir b.pos
  (patternFor p.rom b.mode pos).map fun w => applyPattern w { b with pos := pos }

/-- A divider expiry (R60, step 3): TCNT is reloaded from TINT; then a Single step while REM > 0, a Continuous step
whatever REM is, or, in Single mode with REM = 0, no step (coast to completion, R62). -/
def expire (p : Params) (b : Block W) : Block W :=
  let r := { b with tcnt := b.tint }
  match b.rot with
  | .single =>
    if b.rem = 0#W then r
    else orRaise b (motorStep p { r with rem := countDown b.rem })
  | .continuous => orRaise b (motorStep p r)

/-- TICK in a block that is not halted (R60, steps 1 to 3). -/
def tickRunning (p : Params) (b : Block W) : Block W :=
  match b.run with
  | .stopped => b
  | .running =>
    let c := countDown b.tcnt
    if c = 0#W then expire p b else { b with tcnt := c }

/-- The event TICK (R60). -/
def tick (p : Params) (b : Block W) : Block W := unlessHalted (tickRunning p) b

/-- `TICK^n`: `n` consecutive ticks (00_scope.md, section 5). -/
def ticks (p : Params) : Nat → Block W → Block W
  | 0, b => b
  | n + 1, b => ticks p n (tick p b)

end Sys2Proof.Machine
end

