-- ==== Sys2Proof/Machine/Cycle.lean ====
section
/-! DEFINITION. One clock cycle of the block: its input ports sampled at the rising edge that ends the cycle (R25, R86
to R89, R98 to R100). -/

namespace Sys2Proof.Machine

/-- The command port (R86): a byte that decodes to a command runs `exec` of it, and an unrecognised byte changes nothing
(R48). -/
def receiveByte (byte : Byte) (s : State) : Result :=
  match decode byte with
  | .instr i => exec i s
  | .ignore => .next s

/-- The tick port (R87). -/
def tickPort (strobe : Bool) (s : State) : State :=
  if strobe then s.withBlock (tick params s.block) else s

/-- One clock cycle with the input ports at `c`: reset overrides both strobes (R98, R100); a tick and a command of the
same cycle are applied TICK first (R89; decision D3, log entry 8); with both strobes at 0 nothing changes (R2). -/
def clockCycle (c : Inputs) (s : State) : Result :=
  if c.rst then .next (s.withBlock (resetBlock params))
  else if c.cmdValid then receiveByte c.cmd (tickPort c.tick s)
  else .next (tickPort c.tick s)

/-- The ports in a cycle that presents the byte of a command and nothing else (R86). -/
def commandCycle (byte : Byte) : Inputs := { rst := false, tick := false, cmdValid := true, cmd := byte }

/-- The ports in a cycle that presents a tick and nothing else (R87). -/
def tickCycle : Inputs := { rst := false, tick := true, cmdValid := false, cmd := 0 }

end Sys2Proof.Machine
end

