-- ==== Sys2Proof/Machine/Step.lean ====
section
/-! DEFINITION. The step: one clock cycle. The block fetches no instruction (R13); its next command is whatever byte the
next cycle of `State.inputs` presents at the command port (log entry 4). -/

namespace Sys2Proof.Machine

/-- One clock cycle: the next inputs are taken and applied. With none to come, a cycle without a strobe passes, in which
nothing changes (R2). -/
def step (s : State) : Host.Outcome State Fault Refusal :=
  match s.inputs with
  | [] => .next s
  | c :: rest => clockCycle c { s with inputs := rest }

/-- The state whose next clock cycle presents, at the command port, the byte with bits `w`: the next step runs exactly
that command. A command is one byte (R44), so only bits 7 to 0 of `w` matter. -/
def State.withFetchWord (s : State) (_nbits w : Nat) : State :=
  { s with inputs := commandCycle (BitVec.ofNat 8 w) :: s.inputs }

end Sys2Proof.Machine
end

