-- ==== Sys2Proof/Machine/Events.lean ====
section
/-! DEFINITION. The block as the spec's rules see it, for every counter width and every set of parameters: two kinds of
event and nothing else (R2), applied one after another (R38). `step` runs the same registers' operations through `exec`
at the parameters in force; Laws/Exec.lean proves the two equal. -/

namespace Sys2Proof.Machine

variable {W : Nat}

/-- A command's effect on the registers (R67 to R78). -/
def perform (p : Params) : Instr → Block W → Block W
  | .stop => stop
  | .runf => runf
  | .runr => runr
  | .onef => onef p
  | .oner => oner p
  | .mwave => mwave
  | .mfull => mfull
  | .mhalf => mhalf
  | .slower => slower p
  | .faster => faster p

/-- The two kinds of event (R2). -/
inductive Event where
  /-- One invocation of the periodic scheduler callback. -/
  | tick
  /-- The delivery of one received byte. -/
  | cmd (b : Byte)
  deriving DecidableEq, Repr

/-- The event `CMD(b)` (R52): the rule of the decoded command, or no change for an unrecognised byte (R48). -/
def receive (p : Params) (byte : Byte) (b : Block W) : Block W :=
  match decode byte with
  | .instr i => unlessHalted (perform p i) b
  | .ignore => b

/-- One event, one atomic transition (R2). -/
def applyEvent (p : Params) : Event → Block W → Block W
  | .tick, b => tick p b
  | .cmd byte, b => receive p byte b

/-- A trace: a finite sequence of events applied in order (00_scope.md, section 5; R38). -/
def applyTrace (p : Params) : List Event → Block W → Block W
  | [], b => b
  | e :: es, b => applyTrace p es (applyEvent p e b)

/-- The events that one clock cycle's strobes stand for: TICK first, then CMD (R89), and none while `rst` = 1 (R100). -/
def cycleEvents (c : Inputs) : List Event :=
  if c.rst then []
  else (if c.tick then [.tick] else []) ++ (if c.cmdValid then [.cmd c.cmd] else [])

/-- One clock cycle seen as events: reset, which overrides both strobes (R98, R100), or the cycle's events in order. -/
def applyCycle (p : Params) (c : Inputs) (b : Block W) : Block W :=
  if c.rst then resetBlock p else applyTrace p (cycleEvents c) b

/-- The clock cycles of a run, in order. -/
def applyCycles (p : Params) : List Inputs → Block W → Block W
  | [], b => b
  | c :: cs, b => applyCycles p cs (applyCycle p c b)

end Sys2Proof.Machine
end

