-- ==== Sys2Proof/Machine/Flags.lean ====
section
/-! DEFINITION. The one-bit flags RUN, DIR, ROT and FAULT as bits, and the run-state view of three registers. The block
has no condition codes: no event computes a flag from a result (R60, R84). -/

namespace Sys2Proof.Machine

/-- RUN as a bit: 0 Stopped, 1 Running (R11, decision D5). -/
def runBit : RunFlag → BitVec 1
  | .stopped => 0
  | .running => 1

/-- DIR as a bit: 0 Forward, 1 Reverse (R12, decision D5). -/
def dirBit : Direction → BitVec 1
  | .forward => 0
  | .reverse => 1

/-- ROT as a bit: 0 Continuous, 1 Single (R14, decision D5). -/
def rotBit : RotationMode → BitVec 1
  | .continuous => 0
  | .single => 1

/-- FAULT as a bit: 0 no fault, 1 halted (R19). -/
def faultBit : Bool → BitVec 1
  | false => 0
  | true => 1

/-- The states of the document's scheduler (R22). -/
inductive RunState (W : Nat) where
  | stopped
  | runningContinuous
  | runningSingle (remaining : BitVec W)
  deriving DecidableEq, Repr

/-- The run state, a function of RUN, ROT and REM and no state of its own (R22). -/
def runState {W : Nat} (b : Block W) : RunState W :=
  match b.run, b.rot with
  | .stopped, _ => .stopped
  | .running, .continuous => .runningContinuous
  | .running, .single => .runningSingle b.rem

end Sys2Proof.Machine
end

