-- ==== Sys2Proof/WellFormed.lean ====
section
/-! DEFINITION. What is well formed. A command has no operand (R44, R47), so every `Instr` is; a set of parameters is
well formed when it meets the constraints of R5 and the structural laws of R30, which R6 makes the precondition of every
other rule. -/

namespace Sys2Proof

/-- Every command is well formed: it has no field that a check could refuse (R44). -/
def Instr.wellFormed (_ : Instr) : Bool := true

/-- `W >= 8` (R5). -/
abbrev Params.WidthOk (W : Nat) : Prop := 8 ≤ W

/-- `MIN_INTERVAL <= INIT_INTERVAL <= 2^W - 1` (R5). -/
abbrev Params.InitIntervalOk (W : Nat) (p : Params) : Prop :=
  p.minInterval ≤ p.initInterval ∧ p.initInterval ≤ 2 ^ W - 1

/-- `1 <= SPEED_STEP <= 2^W - 1` (R5). -/
abbrev Params.SpeedStepOk (W : Nat) (p : Params) : Prop := 1 ≤ p.speedStep ∧ p.speedStep ≤ 2 ^ W - 1

/-- `1 <= MIN_INTERVAL` (R5). -/
abbrev Params.MinIntervalOk (p : Params) : Prop := 1 ≤ p.minInterval

/-- `1 <= STEPS_PER_REV` and `2 * STEPS_PER_REV <= 2^W - 1` (R5). -/
abbrev Params.StepsPerRevOk (W : Nat) (p : Params) : Prop :=
  1 ≤ p.stepsPerRev ∧ 2 * p.stepsPerRev ≤ 2 ^ W - 1

/-- Law 1 of R30 for one table: the four states in order, then the same four again. -/
abbrev Params.TablePeriodic (p : Params) (m : DriveMode) : Prop :=
  ∀ k : Fin 4, Machine.romWord p.rom m (BitVec.ofNat 3 (k + 4)) = Machine.romWord p.rom m (BitVec.ofNat 3 k)

/-- The first `n` words of a table are pairwise different (laws 2 and 3 of R30). -/
abbrev Params.TableDistinct (p : Params) (m : DriveMode) (n : Nat) : Prop :=
  ∀ i j : Fin n, Machine.romWord p.rom m (BitVec.ofNat 3 i) = Machine.romWord p.rom m (BitVec.ofNat 3 j) → i = j

/-- The three structural laws of R30. -/
abbrev Params.RomOk (p : Params) : Prop :=
  p.TablePeriodic .wave ∧ p.TablePeriodic .fullStep ∧ p.TableDistinct .wave 4 ∧ p.TableDistinct .fullStep 4 ∧
    p.TableDistinct .halfStep 8

/-- The parameters are admissible at counter width `W` (R5, R6). RESET_MODE is one of the three modes and RESET_OUT has
four bits by their types. -/
abbrev Params.WellFormed (W : Nat) (p : Params) : Prop :=
  Params.WidthOk W ∧ p.InitIntervalOk W ∧ p.SpeedStepOk W ∧ p.MinIntervalOk ∧ p.StepsPerRevOk W ∧ p.RomOk

end Sys2Proof
end

