-- ==== Sys2Proof/Safety.lean ====
section
/-! DEFINITION. What counts as a safe state, in the terms the statements use: the invariants of the reachable state
(R24) and the conditions under which a tick makes a step (R60). -/

namespace Sys2Proof.Machine

variable {W : Nat}

/-- MODE is one of the three drive modes (R10). -/
abbrev Block.LegalMode (b : Block W) : Prop := b.mode ≠ 0b11#2

/-- OUT shows RESET_OUT, no step having happened since reset, so that POS is still its reset value; or OUT shows the
word that some drive mode's table holds at POS (R24). -/
abbrev Block.OutFromRom (p : Params) (b : Block W) : Prop :=
  (b.out = p.resetOut ∧ b.pos = resetPos) ∨ b.out = romWord p.rom .wave b.pos ∨
    b.out = romWord p.rom .fullStep b.pos ∨ b.out = romWord p.rom .halfStep b.pos

/-- The invariants of the reachable state (R24; R79 for TINT, R103 for TCNT). The bounds `POS <= 7`, `TINT <= 2^W - 1`
and `TCNT <= 2^W - 1` hold by the registers' widths. -/
abbrev Block.Inv (p : Params) (b : Block W) : Prop :=
  b.LegalMode ∧ p.minInterval ≤ b.tint.toNat ∧ 1 ≤ b.tcnt.toNat ∧ b.rem.toNat ≤ 2 * p.stepsPerRev ∧
    b.fault = false ∧ b.OutFromRom p

/-- The invariants at the parameters in force. -/
abbrev State.Inv (s : State) : Prop := s.block.Inv params

/-- The next TICK is a divider expiry: running, not halted, and TCNT reaches zero (R60). -/
abbrev Block.Expiring (b : Block W) : Prop :=
  b.fault = false ∧ b.run = .running ∧ countDown b.tcnt = 0#W

/-- The next TICK performs a step: an expiry in Continuous mode, or in Single mode with steps left (R60). -/
abbrev Block.StepDue (b : Block W) : Prop :=
  b.Expiring ∧ (b.rot = .continuous ∨ b.rem ≠ 0#W)

end Sys2Proof.Machine
end

