-- ==== Sys2Proof/Certificates/Slice0/Obligations.lean ====
section
/-! DEFINITION. The statements for the provers. A statement over `W` and `p` holds for every counter width and every set
of parameters that its premises admit; a statement about `exec` or `step` is at the parameters in force, which it names
by their fields and never by their values. -/

open Sys2Proof Sys2Proof.Machine

/-! ## The parameters, the ROM and the encodings -/

/-- R5, R30: the parameters in force meet every constraint (the values are the model's choice: log entries 1 and 2). -/
def Obligations.ParametersInForceAreAdmissible : Prop := params.WellFormed Config.W

/-- R10, R11, R12, R14, R19: the registers' bit encodings (decision D5). -/
def Obligations.RegisterBitEncodings : Prop :=
  (modeBits .wave = 0b00#2 ∧ modeBits .fullStep = 0b01#2 ∧ modeBits .halfStep = 0b10#2) ∧
  (∀ m, driveMode? (modeBits m) = some m) ∧
  (∀ x, driveMode? x = none ↔ x = 0b11#2) ∧
  (runBit .stopped = 0#1 ∧ runBit .running = 1#1) ∧
  (dirBit .forward = 0#1 ∧ dirBit .reverse = 1#1) ∧
  (rotBit .continuous = 0#1 ∧ rotBit .single = 1#1) ∧
  (faultBit false = 0#1 ∧ faultBit true = 1#1)

/-- R44, R46: the opcode map is exact in both directions, for the decoder and for words of the opcode table. -/
def Obligations.OpcodeMapIsExact : Prop :=
  (∀ i : Instr, i.wellFormed = true → decode (encode i) = .instr i) ∧
  (∀ (b : Byte) (i : Instr), decode b = .instr i ↔ b = encode i) ∧
  (∀ (nbits w : Nat) (i : Instr), decodeTableWord nbits w = some i ↔ nbits = 8 ∧ w = (encode i).toNat)

/-- R46: the ten bytes of the map, as the map writes them. -/
def Obligations.TenCommandBytesDecode : Prop :=
  decode 0b00110000#8 = .instr .stop ∧ decode 0b00110001#8 = .instr .runf ∧
  decode 0b00110010#8 = .instr .runr ∧ decode 0b00110011#8 = .instr .onef ∧
  decode 0b00110100#8 = .instr .oner ∧ decode 0b01100001#8 = .instr .mwave ∧
  decode 0b01110011#8 = .instr .mfull ∧ decode 0b01100100#8 = .instr .mhalf ∧
  decode 0b01110001#8 = .instr .slower ∧ decode 0b01110111#8 = .instr .faster

/-- R48 (the ten byte values: decision D27): every other byte decodes to no command, changes no register, FAULT included, at any width and parameters, and a
cycle that presents it goes on with the state as it was. -/
def Obligations.UnrecognisedByteIsIgnored : Prop :=
  ∀ byte : Byte,
    byte ∉ [0x30#8, 0x31#8, 0x32#8, 0x33#8, 0x34#8, 0x61#8, 0x73#8, 0x64#8, 0x71#8, 0x77#8] →
    decode byte = .ignore ∧
    (∀ (W : Nat) (p : Params) (b : Block W), applyEvent p (.cmd byte) b = b) ∧
    (∀ (s : State) (rest : List Inputs), s.inputs = commandCycle byte :: rest →
      step s = .next { s with inputs := rest })

/-- R32, R33: the address of a lookup, where the three tables lie, the word read at the address of a drive mode and a
position, and no value at the addresses that no word backs (the address map: decision D9). -/
def Obligations.RomReadAtModeAndPosition : Prop :=
  (∀ mode pos, (romAddress mode pos).toNat = 8 * mode.toNat + pos.toNat) ∧
  (∀ (rom : Rom) (pos : Position), rom[pos.toNat]? = some (romWord rom .wave pos) ∧
    rom[8 + pos.toNat]? = some (romWord rom .fullStep pos) ∧
    rom[16 + pos.toNat]? = some (romWord rom .halfStep pos)) ∧
  (∀ rom m pos, memRead rom (romAddress (modeBits m) pos) = some (romWord rom m pos)) ∧
  (∀ rom (addr : RomAddress), memRead rom addr = none ↔ 24 ≤ addr.toNat) ∧
  (∀ rom m pos, patternFor rom (modeBits m) pos = some (romWord rom m pos)) ∧
  (∀ rom pos, patternFor rom 0b11#2 pos = none)

/-- R30 (its last paragraph): with an admissible ROM, neighbouring positions of one table hold different words, so that a
step changes OUT unless the mode was changed since the step before it. -/
def Obligations.EveryStepChangesOut : Prop :=
  ∀ (W : Nat) (p : Params), p.RomOk →
    (∀ m pos, romWord p.rom m pos ≠ romWord p.rom m (pos + 1#3)) ∧
    (∀ (b : Block W) (m : DriveMode), b.StepDue → b.mode = modeBits m → b.out = romWord p.rom m b.pos →
      (tick p b).out ≠ b.out)

/-- R54: the wavefactor in Wave and FullStep, twice the wavefactor in HalfStep, no value in mode `0b11`; and the count
that '3' and '4' load fits the register, so that the product is exact at every admissible width. -/
def Obligations.StepsForOneRotation : Prop :=
  (∀ w : Nat, stepsForOneRotation (modeBits .wave) w = some w ∧
    stepsForOneRotation (modeBits .fullStep) w = some w ∧
    stepsForOneRotation (modeBits .halfStep) w = some (2 * w) ∧
    stepsForOneRotation 0b11#2 w = none) ∧
  (∀ (W : Nat) (p : Params), p.StepsPerRevOk W → ∀ mode n, stepsForOneRotation mode p.stepsPerRev = some n →
    ∃ v : BitVec W, rotationSteps p mode = some v ∧ v.toNat = n)

/-- R57, R25: `apply` writes the four lines, whatever the pattern, and nothing else; `coil[3:0]` shows it. -/
def Obligations.PhaseDriverWritesFourLines : Prop :=
  ∀ (W : Nat) (w : Pattern) (b : Block W),
    applyPattern w b = { b with out := w } ∧ coil (applyPattern w b) = w ∧
    coilA1 (applyPattern w b) = w.getLsbD 3 ∧ coilA2 (applyPattern w b) = w.getLsbD 2 ∧
    coilB1 (applyPattern w b) = w.getLsbD 1 ∧ coilB2 (applyPattern w b) = w.getLsbD 0

/-! ## The commands: results, with everything else unchanged -/

/-- R67: `STOP` writes RUN only, and no tick after it changes anything. -/
def Obligations.StopWritesRunOnly : Prop :=
  ∀ s : State, s.block.fault = false →
    exec .stop s = .next { s with block := { s.block with run := .stopped } } ∧
    (∀ n, ticks params n { s.block with run := .stopped } = { s.block with run := .stopped })

/-- R68: `RUNF` writes ROT, DIR and RUN at once, and nothing else. -/
def Obligations.RunForwardWritesThreeFlags : Prop :=
  ∀ s : State, s.block.fault = false →
    exec .runf s =
      .next { s with block := { s.block with rot := .continuous, dir := .forward, run := .running } }

/-- R69: `RUNR` writes ROT, DIR and RUN at once, and nothing else. -/
def Obligations.RunReverseWritesThreeFlags : Prop :=
  ∀ s : State, s.block.fault = false →
    exec .runr s =
      .next { s with block := { s.block with rot := .continuous, dir := .reverse, run := .running } }

/-- R70: `ONEF` from any prior state, for each of the four values of MODE. -/
def Obligations.OneRotationForward : Prop :=
  ∀ s : State, s.block.fault = false →
    (s.block.mode = 0b00#2 ∨ s.block.mode = 0b01#2 →
      exec .onef s = .next { s with block := { s.block with
        rot := .single, rem := BitVec.ofNat Config.W params.stepsPerRev, dir := .forward, run := .running } }) ∧
    (s.block.mode = 0b10#2 →
      exec .onef s = .next { s with block := { s.block with
        rot := .single, rem := BitVec.ofNat Config.W (2 * params.stepsPerRev), dir := .forward, run := .running } }) ∧
    (s.block.mode = 0b11#2 → exec .onef s = .next { s with block := { s.block with fault := true } })

/-- R71: `ONER` from any prior state, for each of the four values of MODE. -/
def Obligations.OneRotationReverse : Prop :=
  ∀ s : State, s.block.fault = false →
    (s.block.mode = 0b00#2 ∨ s.block.mode = 0b01#2 →
      exec .oner s = .next { s with block := { s.block with
        rot := .single, rem := BitVec.ofNat Config.W params.stepsPerRev, dir := .reverse, run := .running } }) ∧
    (s.block.mode = 0b10#2 →
      exec .oner s = .next { s with block := { s.block with
        rot := .single, rem := BitVec.ofNat Config.W (2 * params.stepsPerRev), dir := .reverse, run := .running } }) ∧
    (s.block.mode = 0b11#2 → exec .oner s = .next { s with block := { s.block with fault := true } })

/-- R73, R74, R75: the mode commands write MODE only, from every value of MODE. -/
def Obligations.ModeCommandsWriteModeOnly : Prop :=
  ∀ s : State, s.block.fault = false →
    exec .mwave s = .next { s with block := { s.block with mode := 0b00#2 } } ∧
    exec .mfull s = .next { s with block := { s.block with mode := 0b01#2 } } ∧
    exec .mhalf s = .next { s with block := { s.block with mode := 0b10#2 } }

/-- R77: `SLOWER` writes TINT only: the exact sum where it fits, else nothing (decision D12). -/
def Obligations.SlowerAddsUnlessSumTooWide : Prop :=
  ∀ s : State, s.block.fault = false →
    (s.block.tint.toNat + params.speedStep ≤ 2 ^ Config.W - 1 →
      ∃ v : BitVec Config.W, v.toNat = s.block.tint.toNat + params.speedStep ∧
        exec .slower s = .next { s with block := { s.block with tint := v } }) ∧
    (2 ^ Config.W - 1 < s.block.tint.toNat + params.speedStep → exec .slower s = .next s)

/-- R78: `FASTER` writes TINT only: the larger of the exact difference and MIN_INTERVAL (decision D13). -/
def Obligations.FasterClampsAtMinimum : Prop :=
  ∀ s : State, s.block.fault = false →
    ∃ v : BitVec Config.W,
      (v.toNat : Int) = max ((s.block.tint.toNat : Int) - params.speedStep) params.minInterval ∧
      exec .faster s = .next { s with block := { s.block with tint := v } }

/-- §8 of the document, S7: after `n` presses of 'w' TINT is the larger of the exact difference and the floor. -/
def Obligations.RepeatedFasterReachesFloor : Prop :=
  ∀ (W : Nat) (p : Params), p.minInterval < 2 ^ W →
    ∀ (b : Block W) (n : Nat), b.fault = false → p.minInterval ≤ b.tint.toNat →
      ∃ v : BitVec W, v.toNat = max (b.tint.toNat - n * p.speedStep) p.minInterval ∧
        applyTrace p (List.replicate n (.cmd (encode .faster))) b = { b with tint := v }

/-- R79: 'q' then 'w', and 'w' then 'q', return TINT to its old value unless a bound intervened. -/
def Obligations.SlowerAndFasterUndoEachOther : Prop :=
  ∀ (W : Nat) (p : Params) (b : Block W),
    (p.minInterval ≤ b.tint.toNat → b.tint.toNat + p.speedStep ≤ 2 ^ W - 1 → faster p (slower p b) = b) ∧
    (p.speedStep + p.minInterval ≤ b.tint.toNat → slower p (faster p b) = b)

/-! ## The tick, the divider and the step -/

/-- R63, R64: a step moves POS by one modulo 8 and writes the word at the NEW position, nothing else. -/
def Obligations.StepMovesPosAndWritesOut : Prop :=
  ∀ (W : Nat) (p : Params) (b : Block W),
    (∀ m, b.mode = modeBits m → b.dir = .forward →
      ∃ pos : Position, pos.toNat = (b.pos.toNat + 1) % 8 ∧
        motorStep p b = some { b with pos := pos, out := romWord p.rom m pos }) ∧
    (∀ m, b.mode = modeBits m → b.dir = .reverse →
      ∃ pos : Position, (pos.toNat : Int) = ((b.pos.toNat : Int) - 1) % 8 ∧
        motorStep p b = some { b with pos := pos, out := romWord p.rom m pos }) ∧
    (b.mode = 0b11#2 → motorStep p b = none)

/-- R65: forward then reverse, and reverse then forward, return to the position, with the present table's word on the
lines; eight steps one way return to the position. -/
def Obligations.StepRoundTrip : Prop :=
  (∀ (W : Nat) (p : Params) (b : Block W) (m : DriveMode), b.mode = modeBits m → ∀ d e : Direction, d ≠ e →
    ∃ b', motorStep p { b with dir := d } = some b' ∧
      motorStep p { b' with dir := e } = some { b with dir := e, out := romWord p.rom m b.pos }) ∧
  (∀ d pos, advance d (advance d (advance d (advance d (advance d (advance d (advance d (advance d pos))))))) = pos)

/-- R60: TICK, case by case over every state of the registers. -/
def Obligations.TickFollowsTheAlgorithm : Prop :=
  ∀ (W : Nat) (p : Params) (b : Block W),
    (b.fault = true ∨ b.run = .stopped → tick p b = b) ∧
    (b.fault = false → b.run = .running →
      let c := (b.tcnt.toNat + (2 ^ W - 1)) % 2 ^ W
      (c ≠ 0 → tick p b = { b with tcnt := BitVec.ofNat W c }) ∧
      (c = 0 → b.rot = .single → b.rem.toNat = 0 → tick p b = { b with tcnt := b.tint }) ∧
      (c = 0 → ∀ m, b.mode = modeBits m →
        (b.rot = .single → 0 < b.rem.toNat →
          tick p b = { b with
            tcnt := b.tint
            rem := BitVec.ofNat W (b.rem.toNat - 1)
            pos := advance b.dir b.pos
            out := romWord p.rom m (advance b.dir b.pos) }) ∧
        (b.rot = .continuous →
          tick p b = { b with
            tcnt := b.tint
            pos := advance b.dir b.pos
            out := romWord p.rom m (advance b.dir b.pos) })) ∧
      (c = 0 → b.mode = 0b11#2 → b.rot = .continuous ∨ 0 < b.rem.toNat → tick p b = { b with fault := true }))

/-- R61 (cases 1, 2 and 6): the first expiry comes at exactly the TCNT-th tick, whatever TINT is, and the ticks before
it only count down; a running Continuous block then steps. -/
def Obligations.FirstExpiryAtTcntTicks : Prop :=
  ∀ (W : Nat) (p : Params) (b : Block W), b.fault = false → b.run = .running →
    (∀ k, k < b.tcnt.toNat → ∃ v : BitVec W, v.toNat = b.tcnt.toNat - k ∧ ticks p k b = { b with tcnt := v }) ∧
    (1 ≤ b.tcnt.toNat → b.rot = .continuous → ∀ m, b.mode = modeBits m →
      ticks p b.tcnt.toNat b = { b with
        tcnt := b.tint
        pos := advance b.dir b.pos
        out := romWord p.rom m (advance b.dir b.pos) })

/-- R66: in Continuous mode steps are exactly TINT ticks apart: after the first TCNT ticks and `n` intervals more,
`n + 1` steps have been made. -/
def Obligations.StepsAreTintTicksApart : Prop :=
  ∀ (W : Nat) (p : Params) (b : Block W) (m : DriveMode), b.fault = false → b.run = .running →
    b.rot = .continuous → b.mode = modeBits m → 1 ≤ b.tcnt.toNat → 1 ≤ b.tint.toNat →
    ∀ n : Nat, ∃ pos : Position,
      pos = (if b.dir = .forward then b.pos + BitVec.ofNat 3 (n + 1) else b.pos - BitVec.ofNat 3 (n + 1)) ∧
      ticks p (b.tcnt.toNat + n * b.tint.toNat) b =
        { b with tcnt := b.tint, pos := pos, out := romWord p.rom m pos }

/-- R62 (case 1), S8: a single rotation of `n` steps makes exactly `n` steps, the last leaving REM = 0 and RUN =
Running; from then on nothing but TCNT changes, for ever. -/
def Obligations.SingleRotationMakesExactlyItsSteps : Prop :=
  ∀ (W : Nat) (p : Params) (b : Block W) (m : DriveMode), b.fault = false → b.run = .running →
    b.rot = .single → b.mode = modeBits m → 1 ≤ b.tcnt.toNat → 1 ≤ b.tint.toNat →
    ∀ k : Nat, 1 ≤ k → k ≤ b.rem.toNat → ∃ (pos : Position) (left : BitVec W),
      pos = (if b.dir = .forward then b.pos + BitVec.ofNat 3 k else b.pos - BitVec.ofNat 3 k) ∧
      left.toNat = b.rem.toNat - k ∧
      ticks p (b.tcnt.toNat + (k - 1) * b.tint.toNat) b =
        { b with tcnt := b.tint, rem := left, pos := pos, out := romWord p.rom m pos } ∧
      (k = b.rem.toNat → ∀ n, ∃ v : BitVec W,
        ticks p (b.tcnt.toNat + (k - 1) * b.tint.toNat + n) b =
          { b with tcnt := v, rem := 0#W, pos := pos, out := romWord p.rom m pos })

/-- R105, R61 (case 4): a block with no steps left coasts: ticks change TCNT alone, and the divider keeps running. -/
def Obligations.CoastingChangesOnlyTcnt : Prop :=
  ∀ (W : Nat) (p : Params) (b : Block W), b.fault = false → b.run = .running → b.rot = .single → b.rem = 0#W →
    (∀ n, ∃ v : BitVec W, ticks p n b = { b with tcnt := v }) ∧
    (1 ≤ b.tcnt.toNat → ticks p b.tcnt.toNat b = { b with tcnt := b.tint })

/-- R106: a start command leaves the divider alone: the first step comes at exactly the TCNT-th tick after it, in the
direction it chose. -/
def Obligations.StartDoesNotRestartDivider : Prop :=
  ∀ (s : State) (m : DriveMode), s.block.fault = false → s.block.mode = modeBits m → 1 ≤ s.block.tcnt.toNat →
    ∀ i d, (i = .runf ∧ d = .forward) ∨ (i = .runr ∧ d = .reverse) ∨
        (i = .onef ∧ d = .forward ∧ params.StepsPerRevOk Config.W) ∨
        (i = .oner ∧ d = .reverse ∧ params.StepsPerRevOk Config.W) →
      ∃ t, exec i s = .next t ∧ t.block.tcnt = s.block.tcnt ∧
        (∀ k, k < s.block.tcnt.toNat →
          (ticks params k t.block).pos = s.block.pos ∧ (ticks params k t.block).out = s.block.out) ∧
        (ticks params s.block.tcnt.toNat t.block).pos = advance d s.block.pos ∧
        (ticks params s.block.tcnt.toNat t.block).out = romWord params.rom m (advance d s.block.pos)

/-- R107: a speed command leaves the countdown in progress at its old length; the reload that ends it takes the new
TINT. -/
def Obligations.SpeedCommandActsAtNextReload : Prop :=
  ∀ (W : Nat) (p : Params) (b : Block W), b.fault = false → b.run = .running → b.LegalMode →
    ∀ i, i = .slower ∨ i = .faster →
      (∀ k, k < b.tcnt.toNat → ∃ v : BitVec W, v.toNat = b.tcnt.toNat - k ∧
        ticks p k (perform p i b) = { perform p i b with tcnt := v }) ∧
      (1 ≤ b.tcnt.toNat → (ticks p b.tcnt.toNat (perform p i b)).tcnt = (perform p i b).tint)

/-- R76, R108: a mode command leaves OUT and POS alone, from every value of MODE; the next step writes the new table's
word at the neighbouring position. -/
def Obligations.OutLagsTheModeCommand : Prop :=
  ∀ (W : Nat) (p : Params) (b : Block W),
    ∀ i m, (i = .mwave ∧ m = .wave) ∨ (i = .mfull ∧ m = .fullStep) ∨ (i = .mhalf ∧ m = .halfStep) →
      (perform p i b).out = b.out ∧ (perform p i b).pos = b.pos ∧
      (b.StepDue → (tick p (perform p i b)).pos = advance b.dir b.pos ∧
        (tick p (perform p i b)).out = romWord p.rom m (advance b.dir b.pos))

/-! ## The run-state view -/

/-- R72: the run-state transitions of the five run commands; mode and speed commands make none, and TICK only counts
down the number of a single rotation. -/
def Obligations.RunStateTransitions : Prop :=
  ∀ (W : Nat) (p : Params) (b : Block W),
    runState (perform p .stop b) = .stopped ∧ (perform p .stop b).dir = b.dir ∧
    runState (perform p .runf b) = .runningContinuous ∧ (perform p .runf b).dir = .forward ∧
    runState (perform p .runr b) = .runningContinuous ∧ (perform p .runr b).dir = .reverse ∧
    (∀ m, b.mode = modeBits m →
      runState (perform p .onef b) = .runningSingle (BitVec.ofNat W (modeSteps p.stepsPerRev m)) ∧
      (perform p .onef b).dir = .forward ∧
      runState (perform p .oner b) = .runningSingle (BitVec.ofNat W (modeSteps p.stepsPerRev m)) ∧
      (perform p .oner b).dir = .reverse) ∧
    (∀ i ∈ [Instr.mwave, .mfull, .mhalf, .slower, .faster], runState (perform p i b) = runState b) ∧
    (∀ n, runState b = .runningSingle n → b.StepDue → b.LegalMode →
      runState (tick p b) = .runningSingle (n - 1#W)) ∧
    (¬ (b.StepDue ∧ b.rot = .single) → runState (tick p b) = runState b)

/-! ## Who writes what -/

/-- R21, R93: the frame of every command: none writes TCNT, POS, OUT or the inputs to come, and each writes only
the registers of its row. -/
def Obligations.CommandsWriteOnlyTheirRegisters : Prop :=
  ∀ (i : Instr) (s t : State), exec i s = .next t →
    t.inputs = s.inputs ∧
    t.block.tcnt = s.block.tcnt ∧ t.block.pos = s.block.pos ∧ t.block.out = s.block.out ∧
    (t.block.mode ≠ s.block.mode → i ∈ [Instr.mwave, .mfull, .mhalf]) ∧
    (t.block.run ≠ s.block.run → i ∈ [Instr.stop, .runf, .runr, .onef, .oner]) ∧
    (t.block.dir ≠ s.block.dir → i ∈ [Instr.runf, .runr, .onef, .oner]) ∧
    (t.block.rot ≠ s.block.rot → i ∈ [Instr.runf, .runr, .onef, .oner]) ∧
    (t.block.rem ≠ s.block.rem → i ∈ [Instr.onef, .oner]) ∧
    (t.block.tint ≠ s.block.tint → i ∈ [Instr.slower, .faster]) ∧
    (t.block.fault ≠ s.block.fault → i ∈ [Instr.onef, .oner] ∧ s.block.mode = 0b11#2)

/-- R21, R93: the frame of TICK: it never writes RUN, DIR, ROT, TINT or MODE; POS and OUT only at a step, REM only at
a Single step, TCNT only while running, FAULT only at a step with MODE = `0b11`. -/
def Obligations.TickWritesOnlyItsRegisters : Prop :=
  ∀ (W : Nat) (p : Params) (b : Block W),
    (tick p b).run = b.run ∧ (tick p b).dir = b.dir ∧ (tick p b).rot = b.rot ∧ (tick p b).tint = b.tint ∧
    (tick p b).mode = b.mode ∧
    ((tick p b).pos ≠ b.pos → b.StepDue) ∧ ((tick p b).out ≠ b.out → b.StepDue) ∧
    ((tick p b).rem ≠ b.rem → b.StepDue ∧ b.rot = .single) ∧
    ((tick p b).tcnt ≠ b.tcnt → b.run = .running ∧ b.fault = false) ∧
    ((tick p b).fault ≠ b.fault → b.StepDue ∧ b.mode = 0b11#2)

/-- R110, R59: the lines and the position change in a step of the machine only under reset or at a tick that performs
a step of the motor. -/
def Obligations.OnlyResetOrAStepMovesTheCoils : Prop :=
  ∀ s t : State, step s = .next t → (t.block.out ≠ s.block.out ∨ t.block.pos ≠ s.block.pos) →
    ∃ c rest, s.inputs = c :: rest ∧ (c.rst = true ∨ (c.tick = true ∧ s.block.StepDue))

/-- R18: OUT is never read: two runs that differ only in OUT differ only in OUT for ever after. -/
def Obligations.OutIsNeverRead : Prop :=
  ∀ (W : Nat) (p : Params) (cs : List Inputs) (b : Block W) (w : Pattern),
    ∃ w', applyCycles p cs { b with out := w } = { applyCycles p cs b with out := w' }

/-! ## The invariant violation and the halt -/

/-- R56, R82 (decision D17): a tick that performs a step, and '3' and '4', raise the violation in mode `0b11`, changing FAULT alone;
no other event does, and a mode command repairs the state. -/
def Obligations.InvariantViolationIsRaised : Prop :=
  ∀ (W : Nat) (p : Params) (b : Block W), b.fault = false → b.mode = 0b11#2 →
    (∀ pos, patternFor p.rom b.mode pos = none) ∧ (∀ w, stepsForOneRotation b.mode w = none) ∧
    (b.StepDue → tick p b = { b with fault := true }) ∧
    perform p .onef b = { b with fault := true } ∧ perform p .oner b = { b with fault := true } ∧
    (¬ b.StepDue → (tick p b).fault = false) ∧
    (∀ i, i ≠ .onef → i ≠ .oner → (perform p i b).fault = false) ∧
    (∀ i ∈ [Instr.mwave, .mfull, .mhalf], (perform p i b).LegalMode)

/-- R82, R92 (decision D17): while FAULT = 1 every command and every event changes nothing, through any number of clock cycles, and a
cycle with `rst` = 1 clears it. -/
def Obligations.HaltedUntilReset : Prop :=
  (∀ (i : Instr) (s : State), s.block.fault = true → exec i s = .next s) ∧
  (∀ (W : Nat) (p : Params) (b : Block W), b.fault = true →
    (∀ e, applyEvent p e b = b) ∧
    (∀ cs : List Inputs, (∀ c ∈ cs, c.rst = false) → applyCycles p cs b = b) ∧
    (∀ c : Inputs, c.rst = true → (applyCycle p c b).fault = false))

/-! ## Reset, the ports and the step -/

/-- R98, R100: one clock edge with `rst` = 1 gives all ten registers their reset values, whatever the state and the
strobes (MODE, POS, REM, TCNT and OUT: decision D11). -/
def Obligations.ResetOverridesStrobes : Prop :=
  ∀ (s : State) (c : Inputs) (rest : List Inputs), s.inputs = c :: rest → c.rst = true →
    step s = .next {
      inputs := rest
      block := {
        mode := modeBits params.resetMode, run := .stopped, dir := .forward, pos := 0#3, rot := .continuous
        rem := 0#Config.W
        tint := BitVec.ofNat Config.W params.initInterval
        tcnt := BitVec.ofNat Config.W params.initInterval
        out := params.resetOut, fault := false } }

/-- R23: the registers of the model's state after reset (MODE, POS, REM, TCNT and OUT: decision D11), and the run state
they make. -/
def Obligations.ResetStateRegisters : Prop :=
  runState State.reset.block = .stopped ∧
  State.reset.block = {
    mode := modeBits params.resetMode, run := .stopped, dir := .forward, pos := 0#3, rot := .continuous
    rem := 0#Config.W
    tint := BitVec.ofNat Config.W params.initInterval
    tcnt := BitVec.ofNat Config.W params.initInterval
    out := params.resetOut, fault := false }

/-- R86: a cycle that presents a command's byte runs `exec` of that command, after the tick of the same cycle if there
is one (R89); a byte placed by `withFetchWord` is run by the very next step. Cycles as a list in the state, and
`withFetchWord`, are the model's choice (log entry 4). -/
def Obligations.StepRunsTheDecodedCommand : Prop :=
  (∀ (s : State) (c : Inputs) (rest : List Inputs) (i : Instr),
    s.inputs = c :: rest → c.rst = false → c.cmdValid = true → decode c.cmd = .instr i →
    (c.tick = false → step s = exec i { s with inputs := rest }) ∧
    (c.tick = true → step s = exec i { inputs := rest, block := tick params s.block })) ∧
  (∀ (s : State) (i : Instr), step (s.withFetchWord 8 (encode i).toNat) = exec i s)

/-- R87, R88, R2: a cycle with a tick alone is the event TICK; a cycle without a strobe, and a step with no inputs to
come, change no register. -/
def Obligations.StepRunsTheTick : Prop :=
  (∀ (s : State) (c : Inputs) (rest : List Inputs), s.inputs = c :: rest → c.rst = false → c.cmdValid = false →
    (c.tick = true → step s = .next { inputs := rest, block := tick params s.block }) ∧
    (c.tick = false → step s = .next { s with inputs := rest })) ∧
  (∀ s : State, s.inputs = [] → step s = .next s)

/-- R89: a tick and a command in the same clock cycle give `CMD(cmd)(TICK(current))`, the state that the same two
strobes reach in two cycles of their own, tick first (decision D3). -/
def Obligations.SameCycleIsTickThenCommand : Prop :=
  ∀ (s : State) (c : Inputs) (rest : List Inputs), s.inputs = c :: rest →
    c.rst = false → c.tick = true → c.cmdValid = true →
    ∃ t u : State,
      step s = .next u ∧
      u.block = applyEvent params (.cmd c.cmd) (applyEvent params .tick s.block) ∧ u.inputs = rest ∧
      step { s with inputs := { c with cmdValid := false } :: { c with tick := false } :: rest } = .next t ∧
      step t = .next u

/-- R38: a run of the machine over all its clock cycles is the sequence of their events, each atomic, on the
registers. -/
def Obligations.RunsAreSequencesOfEvents : Prop :=
  (∀ s : State, Sys2Proof.core.run s.inputs.length s =
    .next { inputs := [], block := applyCycles params s.inputs s.block }) ∧
  (∀ (W : Nat) (p : Params) (cs : List Inputs) (b : Block W), (∀ c ∈ cs, c.rst = false) →
    applyCycles p cs b = applyTrace p (cs.map cycleEvents).flatten b)

/-- R117, R40: every event completes in its one cycle: no command and no step stops. -/
def Obligations.EveryEventCompletes : Prop :=
  (∀ (i : Instr) (s : State), ∃ t, exec i s = .next t) ∧ (∀ s : State, ∃ t, step s = .next t)

/-! ## The invariants of the reachable state -/

/-- R24 at reset. -/
def Obligations.InvariantsHoldAtReset : Prop := State.reset.Inv

/-- R24: every step of the machine keeps the invariants. -/
def Obligations.StepKeepsInvariants : Prop :=
  ∀ s t : State, s.Inv → step s = .next t → t.Inv

/-- R24, R79, R103, for every admissible width and set of parameters: reset has the invariants, every event keeps them,
and so does every run of clock cycles from reset. -/
def Obligations.InvariantsForAllParameters : Prop :=
  ∀ (W : Nat) (p : Params), p.WellFormed W →
    (resetBlock p : Block W).Inv p ∧
    (∀ (b : Block W) (e : Event), b.Inv p → (applyEvent p e b).Inv p) ∧
    (∀ cs : List Inputs, (applyCycles p cs (resetBlock p : Block W)).Inv p)
end

