-- ==== Sys2Proof/Laws/Pattern.lean ====
section
/-! SUPPORT. What the pattern generator and the operand arithmetic answer: one lemma per function, which later proofs
cite instead of unfolding it. -/

namespace Sys2Proof.Machine

variable {W : Nat}

@[simp] theorem driveMode?_modeBits (m : DriveMode) : driveMode? (modeBits m) = some m := by
  cases m <;> rfl

/-- A legal MODE is the encoding of one of the three drive modes (R10). -/
theorem mode_cases (x : ModeBits) : (∃ m, x = modeBits m) ∨ x = 0b11#2 := by
  have h : x = 0b00#2 ∨ x = 0b01#2 ∨ x = 0b10#2 ∨ x = 0b11#2 := by
    revert x; decide
  rcases h with h | h | h | h
  exacts [.inl ⟨.wave, h⟩, .inl ⟨.fullStep, h⟩, .inl ⟨.halfStep, h⟩, .inr h]

theorem modeBits_ne_illegal (m : DriveMode) : modeBits m ≠ 0b11#2 := by
  cases m <;> decide

theorem romAddress_toNat (mode : ModeBits) (pos : Position) :
    (romAddress mode pos).toNat = 8 * mode.toNat + pos.toNat := by
  have := pos.isLt
  simp only [romAddress, BitVec.toNat_append]
  rw [← Nat.shiftLeft_add_eq_or_of_lt (by simpa using this), Nat.shiftLeft_eq]
  omega

theorem tableBase_eq (m : DriveMode) : tableBase m = 8 * (modeBits m).toNat := by
  cases m <;> rfl

/-- In a legal mode the lookup answers the table's word (R33, R53). -/
@[simp] theorem patternFor_modeBits (rom : Rom) (m : DriveMode) (pos : Position) :
    patternFor rom (modeBits m) pos = some (romWord rom m pos) := by
  have h := tableBase_add_lt m pos
  simp only [patternFor, memRead, romAddress_toNat, romWord, ← tableBase_eq]
  rw [Vector.getElem?_eq_getElem h]

/-- In mode `0b11` the lookup has no value (R33, R56). -/
@[simp] theorem patternFor_illegal (rom : Rom) (pos : Position) : patternFor rom 0b11#2 pos = none := by
  simp only [patternFor, memRead, romAddress_toNat]
  apply Vector.getElem?_eq_none
  simp

/-- The count that a single rotation loads, in a legal mode (R54). -/
@[simp] theorem rotationSteps_modeBits (p : Params) (m : DriveMode) :
    rotationSteps p (modeBits m) = some (BitVec.ofNat W (modeSteps p.stepsPerRev m)) := by
  cases m <;> rfl

@[simp] theorem rotationSteps_illegal (p : Params) : (rotationSteps p 0b11#2 : Option (BitVec W)) = none := rfl

/-- The loaded count never exceeds twice STEPS_PER_REV (R24). -/
theorem rotationSteps_le {p : Params} {mode : ModeBits} {n : BitVec W} (h : rotationSteps p mode = some n) :
    n.toNat ≤ 2 * p.stepsPerRev := by
  obtain ⟨m, rfl⟩ | rfl := mode_cases mode
  · rw [rotationSteps_modeBits] at h
    obtain rfl := Option.some.inj h
    refine (Nat.mod_le _ _).trans ?_
    cases m <;> simp only [modeSteps] <;> omega
  · simp at h

/-- `q` at width `W`: the exact sum or nothing (R77). -/
theorem slowerInterval_toNat (p : Params) (tint : BitVec W) :
    (slowerInterval p tint).toNat =
      if tint.toNat + p.speedStep ≤ 2 ^ W - 1 then tint.toNat + p.speedStep else tint.toNat := by
  have := Nat.two_pow_pos W
  unfold slowerInterval
  split <;> simp only [BitVec.toNat_ofNat]
  exact Nat.mod_eq_of_lt (by omega)

/-- `w` at width `W`: the larger of the exact difference and MIN_INTERVAL (R78). -/
theorem fasterInterval_toNat {p : Params} (hmin : p.minInterval < 2 ^ W) (tint : BitVec W) :
    (fasterInterval p tint).toNat = max (tint.toNat - p.speedStep) p.minInterval := by
  have := tint.isLt
  unfold fasterInterval
  split <;> simp only [BitVec.toNat_ofNat] <;> rw [Nat.mod_eq_of_lt (by omega)] <;> omega

/-- The decrement of a counter that is not zero is exact (R60). -/
theorem countDown_toNat {c : BitVec W} (h : 0 < c.toNat) : (countDown c).toNat = c.toNat - 1 := by
  have := c.isLt
  have hW : 0 < W := by
    rcases Nat.eq_zero_or_pos W with rfl | hW
    · simp at this; omega
    · exact hW
  have : 2 ≤ 2 ^ W := Nat.le_self_pow (by omega) 2
  simp only [countDown, BitVec.toNat_sub, BitVec.toNat_ofNat]
  rw [Nat.mod_eq_of_lt (a := 1) (by omega)]
  rw [show 2 ^ W - 1 + c.toNat = (c.toNat - 1) + 2 ^ W by omega, Nat.add_mod_right, Nat.mod_eq_of_lt (by omega)]

end Sys2Proof.Machine
end

