-- ==== Sys2Proof/Laws/State.lean ====
section
/-! SUPPORT. One lemma per field of each named update of the state, so that no later proof unfolds a record update. -/

namespace Sys2Proof.Machine

@[simp] theorem State.withBlock_block (s : State) (b : Block Config.W) : (s.withBlock b).block = b := rfl
@[simp] theorem State.withBlock_inputs (s : State) (b : Block Config.W) : (s.withBlock b).inputs = s.inputs := rfl
@[simp] theorem State.withBlock_self (s : State) : s.withBlock s.block = s := rfl
@[simp] theorem State.reset_block : State.reset.block = resetBlock params := rfl
@[simp] theorem State.reset_inputs : State.reset.inputs = [] := rfl

variable {W : Nat}

/-! The invariant violation sets FAULT and nothing else (R82). -/

@[simp] theorem raiseInvariantViolation_mode (b : Block W) : (raiseInvariantViolation b).mode = b.mode := rfl
@[simp] theorem raiseInvariantViolation_run (b : Block W) : (raiseInvariantViolation b).run = b.run := rfl
@[simp] theorem raiseInvariantViolation_dir (b : Block W) : (raiseInvariantViolation b).dir = b.dir := rfl
@[simp] theorem raiseInvariantViolation_pos (b : Block W) : (raiseInvariantViolation b).pos = b.pos := rfl
@[simp] theorem raiseInvariantViolation_rot (b : Block W) : (raiseInvariantViolation b).rot = b.rot := rfl
@[simp] theorem raiseInvariantViolation_rem (b : Block W) : (raiseInvariantViolation b).rem = b.rem := rfl
@[simp] theorem raiseInvariantViolation_tint (b : Block W) : (raiseInvariantViolation b).tint = b.tint := rfl
@[simp] theorem raiseInvariantViolation_tcnt (b : Block W) : (raiseInvariantViolation b).tcnt = b.tcnt := rfl
@[simp] theorem raiseInvariantViolation_out (b : Block W) : (raiseInvariantViolation b).out = b.out := rfl
@[simp] theorem raiseInvariantViolation_fault (b : Block W) : (raiseInvariantViolation b).fault = true := rfl

/-! The Phase Driver writes OUT and nothing else (R57). -/

@[simp] theorem applyPattern_mode (w : Pattern) (b : Block W) : (applyPattern w b).mode = b.mode := rfl
@[simp] theorem applyPattern_run (w : Pattern) (b : Block W) : (applyPattern w b).run = b.run := rfl
@[simp] theorem applyPattern_dir (w : Pattern) (b : Block W) : (applyPattern w b).dir = b.dir := rfl
@[simp] theorem applyPattern_pos (w : Pattern) (b : Block W) : (applyPattern w b).pos = b.pos := rfl
@[simp] theorem applyPattern_rot (w : Pattern) (b : Block W) : (applyPattern w b).rot = b.rot := rfl
@[simp] theorem applyPattern_rem (w : Pattern) (b : Block W) : (applyPattern w b).rem = b.rem := rfl
@[simp] theorem applyPattern_tint (w : Pattern) (b : Block W) : (applyPattern w b).tint = b.tint := rfl
@[simp] theorem applyPattern_tcnt (w : Pattern) (b : Block W) : (applyPattern w b).tcnt = b.tcnt := rfl
@[simp] theorem applyPattern_out (w : Pattern) (b : Block W) : (applyPattern w b).out = w := rfl
@[simp] theorem applyPattern_fault (w : Pattern) (b : Block W) : (applyPattern w b).fault = b.fault := rfl

/-! `STOP` writes RUN and nothing else (R67). -/

@[simp] theorem stop_mode (b : Block W) : (stop b).mode = b.mode := rfl
@[simp] theorem stop_run (b : Block W) : (stop b).run = .stopped := rfl
@[simp] theorem stop_dir (b : Block W) : (stop b).dir = b.dir := rfl
@[simp] theorem stop_pos (b : Block W) : (stop b).pos = b.pos := rfl
@[simp] theorem stop_rot (b : Block W) : (stop b).rot = b.rot := rfl
@[simp] theorem stop_rem (b : Block W) : (stop b).rem = b.rem := rfl
@[simp] theorem stop_tint (b : Block W) : (stop b).tint = b.tint := rfl
@[simp] theorem stop_tcnt (b : Block W) : (stop b).tcnt = b.tcnt := rfl
@[simp] theorem stop_out (b : Block W) : (stop b).out = b.out := rfl
@[simp] theorem stop_fault (b : Block W) : (stop b).fault = b.fault := rfl

/-! `RUNF` and `RUNR` write ROT, DIR and RUN and nothing else (R68, R69). -/

@[simp] theorem runContinuous_mode (d : Direction) (b : Block W) : (runContinuous d b).mode = b.mode := rfl
@[simp] theorem runContinuous_run (d : Direction) (b : Block W) : (runContinuous d b).run = .running := rfl
@[simp] theorem runContinuous_dir (d : Direction) (b : Block W) : (runContinuous d b).dir = d := rfl
@[simp] theorem runContinuous_pos (d : Direction) (b : Block W) : (runContinuous d b).pos = b.pos := rfl
@[simp] theorem runContinuous_rot (d : Direction) (b : Block W) : (runContinuous d b).rot = .continuous := rfl
@[simp] theorem runContinuous_rem (d : Direction) (b : Block W) : (runContinuous d b).rem = b.rem := rfl
@[simp] theorem runContinuous_tint (d : Direction) (b : Block W) : (runContinuous d b).tint = b.tint := rfl
@[simp] theorem runContinuous_tcnt (d : Direction) (b : Block W) : (runContinuous d b).tcnt = b.tcnt := rfl
@[simp] theorem runContinuous_out (d : Direction) (b : Block W) : (runContinuous d b).out = b.out := rfl
@[simp] theorem runContinuous_fault (d : Direction) (b : Block W) : (runContinuous d b).fault = b.fault := rfl

/-! The mode commands write MODE and nothing else (R76). -/

@[simp] theorem selectMode_mode (m : DriveMode) (b : Block W) : (selectMode m b).mode = modeBits m := rfl
@[simp] theorem selectMode_run (m : DriveMode) (b : Block W) : (selectMode m b).run = b.run := rfl
@[simp] theorem selectMode_dir (m : DriveMode) (b : Block W) : (selectMode m b).dir = b.dir := rfl
@[simp] theorem selectMode_pos (m : DriveMode) (b : Block W) : (selectMode m b).pos = b.pos := rfl
@[simp] theorem selectMode_rot (m : DriveMode) (b : Block W) : (selectMode m b).rot = b.rot := rfl
@[simp] theorem selectMode_rem (m : DriveMode) (b : Block W) : (selectMode m b).rem = b.rem := rfl
@[simp] theorem selectMode_tint (m : DriveMode) (b : Block W) : (selectMode m b).tint = b.tint := rfl
@[simp] theorem selectMode_tcnt (m : DriveMode) (b : Block W) : (selectMode m b).tcnt = b.tcnt := rfl
@[simp] theorem selectMode_out (m : DriveMode) (b : Block W) : (selectMode m b).out = b.out := rfl
@[simp] theorem selectMode_fault (m : DriveMode) (b : Block W) : (selectMode m b).fault = b.fault := rfl

/-! `SLOWER` writes TINT and nothing else (R77). -/

@[simp] theorem slower_mode (p : Params) (b : Block W) : (slower p b).mode = b.mode := rfl
@[simp] theorem slower_run (p : Params) (b : Block W) : (slower p b).run = b.run := rfl
@[simp] theorem slower_dir (p : Params) (b : Block W) : (slower p b).dir = b.dir := rfl
@[simp] theorem slower_pos (p : Params) (b : Block W) : (slower p b).pos = b.pos := rfl
@[simp] theorem slower_rot (p : Params) (b : Block W) : (slower p b).rot = b.rot := rfl
@[simp] theorem slower_rem (p : Params) (b : Block W) : (slower p b).rem = b.rem := rfl
@[simp] theorem slower_tint (p : Params) (b : Block W) : (slower p b).tint = slowerInterval p b.tint := rfl
@[simp] theorem slower_tcnt (p : Params) (b : Block W) : (slower p b).tcnt = b.tcnt := rfl
@[simp] theorem slower_out (p : Params) (b : Block W) : (slower p b).out = b.out := rfl
@[simp] theorem slower_fault (p : Params) (b : Block W) : (slower p b).fault = b.fault := rfl

/-! `FASTER` writes TINT and nothing else (R78). -/

@[simp] theorem faster_mode (p : Params) (b : Block W) : (faster p b).mode = b.mode := rfl
@[simp] theorem faster_run (p : Params) (b : Block W) : (faster p b).run = b.run := rfl
@[simp] theorem faster_dir (p : Params) (b : Block W) : (faster p b).dir = b.dir := rfl
@[simp] theorem faster_pos (p : Params) (b : Block W) : (faster p b).pos = b.pos := rfl
@[simp] theorem faster_rot (p : Params) (b : Block W) : (faster p b).rot = b.rot := rfl
@[simp] theorem faster_rem (p : Params) (b : Block W) : (faster p b).rem = b.rem := rfl
@[simp] theorem faster_tint (p : Params) (b : Block W) : (faster p b).tint = fasterInterval p b.tint := rfl
@[simp] theorem faster_tcnt (p : Params) (b : Block W) : (faster p b).tcnt = b.tcnt := rfl
@[simp] theorem faster_out (p : Params) (b : Block W) : (faster p b).out = b.out := rfl
@[simp] theorem faster_fault (p : Params) (b : Block W) : (faster p b).fault = b.fault := rfl

/-! The registers after reset (R23). -/

@[simp] theorem resetBlock_mode (p : Params) : (resetBlock p : Block W).mode = modeBits p.resetMode := rfl
@[simp] theorem resetBlock_run (p : Params) : (resetBlock p : Block W).run = .stopped := rfl
@[simp] theorem resetBlock_dir (p : Params) : (resetBlock p : Block W).dir = .forward := rfl
@[simp] theorem resetBlock_pos (p : Params) : (resetBlock p : Block W).pos = resetPos := rfl
@[simp] theorem resetBlock_rot (p : Params) : (resetBlock p : Block W).rot = .continuous := rfl
@[simp] theorem resetBlock_rem (p : Params) : (resetBlock p : Block W).rem = BitVec.ofNat W resetRem := rfl
@[simp] theorem resetBlock_tint (p : Params) : (resetBlock p : Block W).tint = BitVec.ofNat W p.initInterval := rfl
@[simp] theorem resetBlock_tcnt (p : Params) : (resetBlock p : Block W).tcnt = BitVec.ofNat W (resetTcnt p) := rfl
@[simp] theorem resetBlock_out (p : Params) : (resetBlock p : Block W).out = p.resetOut := rfl
@[simp] theorem resetBlock_fault (p : Params) : (resetBlock p : Block W).fault = false := rfl

end Sys2Proof.Machine
end

