-- ==== Sys2Proof/Laws/Exec.lean ====
section
/-! SUPPORT. Everything a command can do: `exec` always answers a next state, and that state is `perform` on the
registers, gated by FAULT. -/

namespace Sys2Proof.Machine

variable {W : Nat}

@[simp] theorem unlessHalted_halted (f : Block W → Block W) {b : Block W} (h : b.fault = true) :
    unlessHalted f b = b := by
  simp [unlessHalted, h]

@[simp] theorem unlessHalted_live (f : Block W → Block W) {b : Block W} (h : b.fault = false) :
    unlessHalted f b = f b := by
  simp [unlessHalted, h]

/-- The end of an event: its result, or, where there is none, the invariant violation on the registers it began with
(R56, R82). -/
theorem orRaise_cases (b : Block W) (r : Option (Block W)) :
    (∃ b', r = some b' ∧ orRaise b r = b') ∨ (r = none ∧ orRaise b r = { b with fault := true }) := by
  cases r with
  | none => exact .inr ⟨rfl, rfl⟩
  | some b' => exact .inl ⟨b', rfl, rfl⟩

/-- `exec` is `perform` at the parameters in force (R52). -/
theorem exec_eq (i : Instr) (s : State) :
    exec i s = .next (s.withBlock (unlessHalted (perform params i) s.block)) := by
  cases i <;> rfl

/-- A command that answers `next t` left the inputs alone and wrote the registers as `perform` says, or found the block
halted and wrote nothing. -/
theorem exec_cases {i : Instr} {s t : State} (h : exec i s = .next t) :
    t.inputs = s.inputs ∧
      ((s.block.fault = true ∧ t.block = s.block) ∨
        (s.block.fault = false ∧ t.block = perform params i s.block)) := by
  rw [exec_eq] at h
  injection h with h
  subst h
  cases hf : s.block.fault <;> simp [hf]

/-- A single rotation in a legal mode (R70, R71). -/
theorem runSingle_modeBits (p : Params) (d : Direction) {b : Block W} {m : DriveMode} (h : b.mode = modeBits m) :
    runSingle p d b =
      { b with
        rot := .single
        rem := BitVec.ofNat W (modeSteps p.stepsPerRev m)
        dir := d
        run := .running } := by
  simp [runSingle, h, orRaise]

/-- A single rotation in mode `0b11` raises the invariant violation (R56). -/
theorem runSingle_illegal (p : Params) (d : Direction) {b : Block W} (h : b.mode = 0b11#2) :
    runSingle p d b = raiseInvariantViolation b := by
  simp [runSingle, h, orRaise]

end Sys2Proof.Machine
end

