-- ==== Sys2Proof/Laws/PerInstr.lean ====
section
/-! SUPPORT. The family `AsciiOpcode`: a command's byte is the ASCII code of its character (R45, R46), and bit 7 of it is
0; one lemma per constructor. -/

namespace Sys2Proof.Laws.AsciiOpcode

/-- The command's byte is the code of the character that R46 prints beside it, a 7-bit code. -/
abbrev Statement (i : Instr) : Prop := (encode i).toNat = (character i).toNat ∧ (encode i).getLsbD 7 = false

theorem stop : Statement .stop := by decide
theorem runf : Statement .runf := by decide
theorem runr : Statement .runr := by decide
theorem onef : Statement .onef := by decide
theorem oner : Statement .oner := by decide
theorem mwave : Statement .mwave := by decide
theorem mfull : Statement .mfull := by decide
theorem mhalf : Statement .mhalf := by decide
theorem slower : Statement .slower := by decide
theorem faster : Statement .faster := by decide

end Sys2Proof.Laws.AsciiOpcode
end

