-- ==== Sys2Proof/Laws/Scheduler.lean ====
section
/-! SUPPORT. Everything a tick can do, said once (R60): an inversion lemma for `tick`, and the laws of `ticks`. -/

namespace Sys2Proof.Machine

variable {W : Nat}

/-- A step in a legal mode (R63, R64). -/
theorem motorStep_modeBits (p : Params) {b : Block W} {m : DriveMode} (h : b.mode = modeBits m) :
    motorStep p b =
      some { b with pos := advance b.dir b.pos, out := romWord p.rom m (advance b.dir b.pos) } := by
  simp [motorStep, h, applyPattern]

/-- A step in mode `0b11` has no value (R56). -/
theorem motorStep_illegal (p : Params) {b : Block W} (h : b.mode = 0b11#2) : motorStep p b = none := by
  simp [motorStep, h]

/-- The cases of TICK: halted or stopped; between two expiries; a coasting expiry; a step in a legal mode; a step in
mode `0b11`. -/
theorem tick_cases (p : Params) (b : Block W) :
    ((b.fault = true ∨ b.run = .stopped) ∧ tick p b = b) ∨
    (b.fault = false ∧ b.run = .running ∧ countDown b.tcnt ≠ 0#W ∧
      tick p b = { b with tcnt := countDown b.tcnt }) ∨
    (b.Expiring ∧ b.rot = .single ∧ b.rem = 0#W ∧ tick p b = { b with tcnt := b.tint }) ∨
    (∃ m, b.mode = modeBits m ∧ b.StepDue ∧
      tick p b =
        { b with
          tcnt := b.tint
          rem := if b.rot = .single then countDown b.rem else b.rem
          pos := advance b.dir b.pos
          out := romWord p.rom m (advance b.dir b.pos) }) ∨
    (b.mode = 0b11#2 ∧ b.StepDue ∧ tick p b = { b with fault := true }) := by
  obtain ⟨mode, run, dir, pos, rot, rem, tint, tcnt, out, fault⟩ := b
  cases fault
  case true => exact .inl ⟨.inl rfl, rfl⟩
  cases run
  case stopped => exact .inl ⟨.inr rfl, rfl⟩
  refine .inr ?_
  by_cases hc : countDown tcnt = 0#W
  case neg => exact .inl ⟨rfl, rfl, hc, by simp [tick, unlessHalted, tickRunning, hc]⟩
  refine .inr ?_
  cases rot
  case continuous =>
    refine .inr ?_
    obtain ⟨m, rfl⟩ | rfl := mode_cases mode
    · exact .inl ⟨m, rfl, ⟨⟨rfl, rfl, hc⟩, .inl rfl⟩, by
        simp [tick, unlessHalted, tickRunning, hc, expire, motorStep, orRaise, applyPattern]⟩
    · exact .inr ⟨rfl, ⟨⟨rfl, rfl, hc⟩, .inl rfl⟩, by
        simp [tick, unlessHalted, tickRunning, hc, expire, motorStep, orRaise, raiseInvariantViolation]⟩
  by_cases hrem : rem = 0#W
  case pos => exact .inl ⟨⟨rfl, rfl, hc⟩, rfl, hrem, by simp [tick, unlessHalted, tickRunning, hc, expire, hrem]⟩
  refine .inr ?_
  obtain ⟨m, rfl⟩ | rfl := mode_cases mode
  · exact .inl ⟨m, rfl, ⟨⟨rfl, rfl, hc⟩, .inr hrem⟩, by
      simp [tick, unlessHalted, tickRunning, hc, expire, hrem, motorStep, orRaise, applyPattern]⟩
  · exact .inr ⟨rfl, ⟨⟨rfl, rfl, hc⟩, .inr hrem⟩, by
      simp [tick, unlessHalted, tickRunning, hc, expire, hrem, motorStep, orRaise, raiseInvariantViolation]⟩

theorem ticks_add (p : Params) (m n : Nat) (b : Block W) : ticks p (m + n) b = ticks p n (ticks p m b) := by
  induction m generalizing b with
  | zero => simp [ticks]
  | succ m ih => rw [Nat.add_right_comm]; exact ih (tick p b)

theorem ticks_succ (p : Params) (n : Nat) (b : Block W) : ticks p (n + 1) b = tick p (ticks p n b) := by
  rw [ticks_add]; rfl

end Sys2Proof.Machine
end

