-- ==== Sys2Proof/Laws/Step.lean ====
section
/-! SUPPORT. Everything a step can do, said once: it takes the next clock cycle's inputs and applies that cycle to the
registers, or, with no inputs to come, changes nothing. -/

namespace Sys2Proof.Machine

/-- The command port at the parameters in force is the event CMD (R52). -/
theorem receiveByte_eq (byte : Byte) (s : State) :
    receiveByte byte s = .next (s.withBlock (receive params byte s.block)) := by
  cases h : decode byte <;> simp [receiveByte, receive, h, exec_eq]

theorem tickPort_eq (strobe : Bool) (s : State) :
    tickPort strobe s = s.withBlock (if strobe then tick params s.block else s.block) := by
  cases strobe <;> rfl

/-- One clock cycle is the cycle's events on the registers (R89, R98). -/
theorem clockCycle_eq (c : Inputs) (s : State) :
    clockCycle c s = .next (s.withBlock (applyCycle params c s.block)) := by
  obtain ⟨rst, tck, valid, byte⟩ := c
  cases rst <;> cases tck <;> cases valid <;>
    simp [clockCycle, applyCycle, cycleEvents, applyTrace, applyEvent, receiveByte_eq, tickPort_eq, State.withBlock]

theorem step_nil {s : State} (h : s.inputs = []) : step s = .next s := by
  simp [step, h]

theorem step_cons {s : State} {c : Inputs} {rest : List Inputs} (h : s.inputs = c :: rest) :
    step s = .next { block := applyCycle params c s.block, inputs := rest } := by
  simp [step, h, clockCycle_eq, State.withBlock]

/-- A step that answers `next t`: no inputs to come and nothing changed, or one clock cycle applied. -/
theorem step_cases {s t : State} (h : step s = .next t) :
    (s.inputs = [] ∧ t = s) ∨
    ∃ c, s.inputs = c :: t.inputs ∧ t.block = applyCycle params c s.block := by
  cases hi : s.inputs with
  | nil => rw [step_nil hi] at h; injection h with h; exact .inl ⟨rfl, h.symm⟩
  | cons c rest => rw [step_cons hi] at h; injection h with h; subst h; exact .inr ⟨c, rfl, rfl⟩

end Sys2Proof.Machine
end

