-- ==== Sys2Proof/Tests/Slice0.lean ====
section
/-! SUPPORT. The model's own tests: ill-formed parameters that each check refuses, the encodings of R46, single events
from spec/95_test_vectors.md (whose names the tests carry), and for each statement of Certificates/Slice0/Obligations
that has premises a state that meets them. -/

namespace Sys2Proof.Tests

open Sys2Proof Sys2Proof.Machine

/-- A running block one tick before an expiry: Continuous, Forward, Wave, POS 0, TINT 5. -/
def due : Block Config.W where
  mode := 0b00#2
  run := .running
  dir := .forward
  pos := 0#3
  rot := .continuous
  rem := 0#32
  tint := 5#32
  tcnt := 1#32
  out := 0b0000#4
  fault := false

/-- The same block in Single mode with some steps left. -/
def single (n : BitVec Config.W) : Block Config.W := { due with rot := .single, rem := n }

/-- A state with given registers and no inputs to come. -/
def stateOf (b : Block Config.W) : State := { block := b, inputs := [] }

/-- The registers an outcome leaves, where it is a next state. -/
def after : Result → Option (Block Config.W)
  | .next s => some s.block
  | .fault _ => none
  | .refused _ => none

/-- A cycle with a tick and a byte together. -/
def both (byte : Byte) : Inputs := { rst := false, tick := true, cmdValid := true, cmd := byte }

/-! ## Well-formedness: one ill-formed set of parameters for each check -/

theorem test_parameters_in_force_ok : params.WellFormed 32 := by decide
theorem test_parameters_ok_stateOfwidth_8 : params.WellFormed 8 := by decide
theorem test_width_7_refused : ¬ Params.WidthOk 7 := by decide
theorem test_initInterval_below_minInterval_refused : ¬ { params with initInterval := 4 }.InitIntervalOk 32 := by decide
theorem test_initInterval_too_wide_refused : ¬ { params with initInterval := 256 }.InitIntervalOk 8 := by decide
theorem test_speedStep_zero_refused : ¬ { params with speedStep := 0 }.SpeedStepOk 32 := by decide
theorem test_speedStep_too_wide_refused : ¬ { params with speedStep := 256 }.SpeedStepOk 8 := by decide
theorem test_minInterval_zero_refused : ¬ { params with minInterval := 0 }.MinIntervalOk := by decide
theorem test_stepsPerRev_zero_refused : ¬ { params with stepsPerRev := 0 }.StepsPerRevOk 32 := by decide
/-- PG3: `W` = 8 with STEPS_PER_REV = 128 is outside the constraint. -/
theorem test_stepsPerRev_128_refused_stateOfwidth_8 : ¬ { params with stepsPerRev := 128 }.StepsPerRevOk 8 := by decide
/-- Law 1 of R30: a Wave table whose fifth word is not its first. -/
theorem test_wave_not_periodic_refused : ¬ { params with rom := defaultRom.set 4 0b0010#4 }.TablePeriodic .wave := by
  decide
/-- Law 1 of R30: a FullStep table whose last word is not its fourth. -/
theorem test_fullStep_not_periodic_refused :
    ¬ { params with rom := defaultRom.set 15 0b0000#4 }.TablePeriodic .fullStep := by decide
/-- Law 2 of R30: the first two words of the Wave table alike. -/
theorem test_wave_not_distinct_refused : ¬ { params with rom := defaultRom.set 1 0b1000#4 }.TableDistinct .wave 4 := by
  decide
/-- Law 3 of R30: the last word of the HalfStep table equal to the one before it. -/
theorem test_halfStep_not_distinct_refused :
    ¬ { params with rom := defaultRom.set 23 0b0001#4 }.TableDistinct .halfStep 8 := by decide

/-! ## Encodings (R46), written bit by bit from the table -/

theorem test_word_stop : decode 0b00110000#8 = .instr .stop ∧ encode .stop = 0x30#8 := by decide
theorem test_word_runf : decode 0b00110001#8 = .instr .runf ∧ encode .runf = 0x31#8 := by decide
theorem test_word_runr : decode 0b00110010#8 = .instr .runr ∧ encode .runr = 0x32#8 := by decide
theorem test_word_onef : decode 0b00110011#8 = .instr .onef ∧ encode .onef = 0x33#8 := by decide
theorem test_word_oner : decode 0b00110100#8 = .instr .oner ∧ encode .oner = 0x34#8 := by decide
theorem test_word_mwave : decode 0b01100001#8 = .instr .mwave ∧ encode .mwave = 0x61#8 := by decide
theorem test_word_mfull : decode 0b01110011#8 = .instr .mfull ∧ encode .mfull = 0x73#8 := by decide
theorem test_word_mhalf : decode 0b01100100#8 = .instr .mhalf ∧ encode .mhalf = 0x64#8 := by decide
theorem test_word_slower : decode 0b01110001#8 = .instr .slower ∧ encode .slower = 0x71#8 := by decide
theorem test_word_faster : decode 0b01110111#8 = .instr .faster ∧ encode .faster = 0x77#8 := by decide

/-- DE1: samples of the 246 other bytes. -/
theorem test_ignored_samples :
    ∀ b ∈ [0x00#8, 0x0A#8, 0x0D#8, 0x20#8, 0x2F#8, 0x35#8, 0x39#8, 0x41#8, 0x44#8, 0x51#8, 0x53#8, 0x57#8, 0x60#8,
      0x62#8, 0x63#8, 0x65#8, 0x70#8, 0x72#8, 0x74#8, 0x76#8, 0x78#8, 0x7F#8, 0x80#8, 0xB1#8, 0xFF#8],
      decode b = .ignore := by decide

theorem test_table_word : decodeTableWord 8 0x77 = some .faster ∧ decodeTableWord 8 0x57 = none ∧
    decodeTableWord 16 0x77 = none ∧ decodeTableWord 8 0x177 = none := by decide

/-- The first step after reset runs the placed byte. -/
theorem test_fetch_word : after (step (State.reset.withFetchWord 8 0x77)) =
    some { (resetBlock params : Block Config.W) with tint := 95#32 } := by decide

/-! ## The pattern generator and the Phase Driver -/

/-- PG1: `patternFor` over its whole domain. -/
theorem test_pattern_table :
    (List.range 8).map (fun k => patternFor params.rom 0b00#2 (BitVec.ofNat 3 k)) =
      [some 0b1000#4, some 0b0010#4, some 0b0100#4, some 0b0001#4,
       some 0b1000#4, some 0b0010#4, some 0b0100#4, some 0b0001#4] ∧
    (List.range 8).map (fun k => patternFor params.rom 0b01#2 (BitVec.ofNat 3 k)) =
      [some 0b1010#4, some 0b0110#4, some 0b0101#4, some 0b1001#4,
       some 0b1010#4, some 0b0110#4, some 0b0101#4, some 0b1001#4] ∧
    (List.range 8).map (fun k => patternFor params.rom 0b10#2 (BitVec.ofNat 3 k)) =
      [some 0b1000#4, some 0b1010#4, some 0b0010#4, some 0b0110#4,
       some 0b0100#4, some 0b0101#4, some 0b0001#4, some 0b1001#4] := by decide

/-- R31: in the default ROM the HalfStep table interleaves the Wave and FullStep tables. -/
theorem test_halfStep_interleaves : ∀ k : Fin 4,
    romWord defaultRom .halfStep (BitVec.ofNat 3 (2 * k)) = romWord defaultRom .wave (BitVec.ofNat 3 k) ∧
    romWord defaultRom .halfStep (BitVec.ofNat 3 (2 * k + 1)) = romWord defaultRom .fullStep (BitVec.ofNat 3 k) := by
  decide

/-- PG3, S2. -/
theorem test_stepsForOneRotation : stepsForOneRotation 0b00#2 48 = some 48 ∧ stepsForOneRotation 0b01#2 200 = some 200 ∧
    stepsForOneRotation 0b10#2 48 = some 96 ∧ stepsForOneRotation 0b10#2 1 = some 2 := by decide

/-- PG4: in mode `0b11` a due tick, and '3', set FAULT alone; 'a' repairs the mode. -/
theorem test_illegal_mode :
    tick params { due with mode := 0b11#2 } = { due with mode := 0b11#2, fault := true } ∧
    after (exec .onef (stateOf { due with mode := 0b11#2 })) = some { due with mode := 0b11#2, fault := true } ∧
    after (exec .mwave (stateOf { due with mode := 0b11#2 })) = some due := by decide

/-- PD1. -/
theorem test_apply : coil (applyPattern 0b0110#4 due) = 0b0110#4 ∧ coilA1 (applyPattern 0b0110#4 due) = false ∧
    coilA2 (applyPattern 0b0110#4 due) = true ∧ coilB1 (applyPattern 0b0110#4 due) = true ∧
    coilB2 (applyPattern 0b0110#4 due) = false := by decide

/-! ## The tick -/

/-- R60, example: an expiry steps, and with TCNT = 2 only the count moves. -/
theorem test_tick_example :
    tick params { due with tint := 100#32 } = { due with tint := 100#32, tcnt := 100#32, pos := 1#3, out := 0b0010#4 } ∧
    tick params { due with tint := 100#32, tcnt := 2#32 } = { due with tint := 100#32 } := by decide

/-- TD1: a stopped tick. -/
theorem test_tick_stopped : tick params (resetBlock params : Block Config.W) = resetBlock params := by decide

/-- TD4: reverse from POS 0 wraps to 7, in HalfStep. -/
theorem test_tick_reverse_wraps : tick params { due with dir := .reverse, mode := 0b10#2 } =
    { due with dir := .reverse, mode := 0b10#2, tcnt := 5#32, pos := 7#3, out := 0b1001#4 } := by decide

/-- R63, example: forward from POS 7 wraps to 0, in HalfStep. -/
theorem test_tick_forward_wraps : tick params { due with pos := 7#3, mode := 0b10#2 } =
    { due with mode := 0b10#2, tcnt := 5#32, pos := 0#3, out := 0b1000#4 } := by decide

/-- TD5, tick 4 and tick 7: the last Single step, and a coasting expiry. -/
theorem test_tick_single :
    tick params { single 1#32 with dir := .reverse, mode := 0b01#2, tint := 3#32 } =
      { single 0#32 with
        dir := .reverse, mode := 0b01#2, tint := 3#32, tcnt := 3#32, pos := 7#3, out := 0b1001#4 } ∧
    tick params (single 0#32) = { single 0#32 with tcnt := 5#32 } := by decide

/-- TD6: Continuous mode ignores REM. -/
theorem test_tick_continuous_ignores_rem : tick params { due with rem := 17#32 } =
    { due with rem := 17#32, tcnt := 5#32, pos := 1#3, out := 0b0010#4 } := by decide

/-- TD7: the unreachable TCNT = 0 wraps. -/
theorem test_tick_tcnt_zero_wraps :
    tick params { due with tcnt := 0#32 } = { due with tcnt := 4294967295#32 } := by decide

/-! ## The commands -/

/-- RC1. -/
theorem test_stop : after (exec .stop (stateOf { single 40#32 with dir := .reverse, tcnt := 17#32 })) =
    some { single 40#32 with dir := .reverse, tcnt := 17#32, run := .stopped } := by decide

/-- RC2. -/
theorem test_runf : after (exec .runf (stateOf { single 40#32 with dir := .reverse })) =
    some { due with rem := 40#32 } := by decide

/-- RC2. -/
theorem test_runr : after (exec .runr State.reset) =
    some { (resetBlock params : Block Config.W) with run := .running, dir := .reverse } := by decide

/-- RC5: re-arming from any prior state. -/
theorem test_onef : after (exec .onef (stateOf { single 7#32 with dir := .reverse })) = some (single 48#32) := by decide

/-- RC4: HalfStep doubles the count. -/
theorem test_oner : after (exec .oner (stateOf { due with mode := 0b10#2 })) =
    some { single 96#32 with mode := 0b10#2, dir := .reverse } := by decide

/-- R73, example: OUT and POS stay. -/
theorem test_mwave : after (exec .mwave (stateOf { due with mode := 0b10#2, pos := 5#3, out := 0b0101#4 })) =
    some { due with pos := 5#3, out := 0b0101#4 } := by decide

/-- MC1. -/
theorem test_mfull : after (exec .mfull State.reset) =
    some { (resetBlock params : Block Config.W) with mode := 0b01#2 } := by decide

/-- MC3: REM is not recomputed. -/
theorem test_mhalf : after (exec .mhalf (stateOf (single 48#32))) = some { single 48#32 with mode := 0b10#2 } := by decide

/-- SC1. -/
theorem test_slower : after (exec .slower (stateOf { due with tint := 100#32, tcnt := 42#32 })) =
    some { due with tint := 105#32, tcnt := 42#32 } := by decide

/-- SC4 at `W` = 8: 250 gives 255; 251 and 255 stay. -/
theorem test_slower_stateOfwidth_8 : slowerInterval params 250#8 = 255#8 ∧ slowerInterval params 251#8 = 251#8 ∧
    slowerInterval params 255#8 = 255#8 := by decide

/-- SC2 and SC5. -/
theorem test_faster : after (exec .faster (stateOf { due with tint := 100#32, tcnt := 42#32 })) =
    some { due with tint := 95#32, tcnt := 42#32 } := by decide

/-- SC2, SC3: 12 gives 7, 7 is clamped to 5, 5 stays. -/
theorem test_faster_floor : fasterInterval params 12#32 = 7#32 ∧ fasterInterval params 7#32 = 5#32 ∧
    fasterInterval params 5#32 = 5#32 := by decide

/-! ## One clock cycle -/

/-- SE1: the due step completes, then the stop applies. -/
theorem test_tick_with_stop : after (step { block := due, inputs := [both 0x30#8] }) =
    some { due with pos := 1#3, out := 0b0010#4, tcnt := 5#32, run := .stopped } := by decide

/-- SE2: the tick of the same cycle does not count for a start. -/
theorem test_tick_with_start : after (step { block := { due with run := .stopped }, inputs := [both 0x31#8] }) =
    some due := by decide

/-- SE3: the command's REM wins over the tick's. -/
theorem test_tick_with_rearm : after (step { block := { single 10#32 with pos := 1#3 }, inputs := [both 0x33#8] }) =
    some { single 48#32 with pos := 2#3, tcnt := 5#32, out := 0b0100#4 } := by decide

/-- SE4: the reload uses the old TINT. -/
theorem test_tick_with_slower : after (step { block := due, inputs := [both 0x71#8] }) =
    some { due with pos := 1#3, out := 0b0010#4, tcnt := 5#32, tint := 10#32 } := by decide

/-- RS1: reset, with both strobes presented, from a halted block. -/
theorem test_reset_overrides : after (step { block := { due with fault := true }
                                             inputs := [{ both 0x31#8 with rst := true }] }) =
    some { mode := 0b00#2, run := .stopped, dir := .forward, pos := 0#3, rot := .continuous, rem := 0#32,
           tint := 100#32, tcnt := 100#32, out := 0b0000#4, fault := false } := by decide

/-- R97, 'W' (0x57): ignored. -/
theorem test_upper_case_ignored : after (step { block := due, inputs := [commandCycle 0x57#8] }) = some due := by decide

/-! ## Witnesses: for each statement with premises, values that meet them -/

theorem witness_unrecognised_byte :
    0x57#8 ∉ [0x30#8, 0x31#8, 0x32#8, 0x33#8, 0x34#8, 0x61#8, 0x73#8, 0x64#8, 0x71#8, 0x77#8] ∧
    State.inputs { block := due, inputs := [commandCycle 0x57#8] } = commandCycle 0x57#8 :: [] := by decide

theorem witness_every_step_changes_out : params.RomOk ∧
    Block.StepDue { due with out := romWord params.rom .wave 0#3 } ∧ due.mode = modeBits .wave := by decide

theorem witness_steps_for_one_rotation :
    params.StepsPerRevOk 32 ∧ stepsForOneRotation 0b10#2 params.stepsPerRev = some 96 := by decide

/-- The largest STEPS_PER_REV that 8 bits admit. -/
theorem witness_steps_for_one_rotation_boundary : { params with stepsPerRev := 127 }.StepsPerRevOk 8 ∧
    stepsForOneRotation 0b10#2 127 = some 254 := by decide

/-- The premise of the statements about `STOP`, `RUNF`, `RUNR`, the mode commands and `FASTER`. -/
theorem witness_not_halted : (stateOf due).block.fault = false := by decide

/-- The four values of MODE in the statements about `ONEF` and `ONER`. -/
theorem witness_one_rotation_modes :
    (stateOf due).block.mode = 0b00#2 ∧ (stateOf { due with mode := 0b01#2 }).block.mode = 0b01#2 ∧
    (stateOf { due with mode := 0b10#2 }).block.mode = 0b10#2 ∧ (stateOf { due with mode := 0b11#2 }).block.mode = 0b11#2 ∧
    due.fault = false := by decide

/-- The last TINT to which 'q' still adds, and the first to which it does not. -/
theorem witness_slower_boundary :
    (4294967290#32 : BitVec Config.W).toNat + params.speedStep ≤ 2 ^ Config.W - 1 ∧
    2 ^ Config.W - 1 < (4294967291#32 : BitVec Config.W).toNat + params.speedStep := by decide

theorem witness_repeated_faster : params.minInterval < 2 ^ 32 ∧ due.fault = false ∧
    params.minInterval ≤ due.tint.toNat := by decide

/-- At both bounds: TINT the least admissible, and TINT the least that 'w' lowers by a whole step. -/
theorem witness_slower_faster_undo :
    (params.minInterval ≤ (5#32).toNat ∧ (5#32).toNat + params.speedStep ≤ 2 ^ 32 - 1) ∧
    params.speedStep + params.minInterval ≤ (10#32).toNat := by decide

theorem witness_step_moves :
    (due.mode = modeBits .wave ∧ due.dir = .forward ∧ due.pos = 0#3) ∧
    (Block.dir { due with dir := .reverse } = .reverse) ∧ Block.mode { due with mode := 0b11#2 } = 0b11#2 := by decide

theorem witness_step_round_trip : due.mode = modeBits .wave ∧ Direction.forward ≠ Direction.reverse := by decide

/-- TICK: halted; stopped; counting; a coasting expiry; a Single step; a Continuous step; a step in mode `0b11`. -/
theorem witness_tick_clauses :
    Block.fault { due with fault := true } = true ∧ Block.run { due with run := .stopped } = .stopped ∧
    (due.fault = false ∧ due.run = .running) ∧
    ((2#32).toNat + (2 ^ 32 - 1)) % 2 ^ 32 ≠ 0 ∧ (due.tcnt.toNat + (2 ^ 32 - 1)) % 2 ^ 32 = 0 ∧
    ((single 0#32).rot = .single ∧ (single 0#32).rem.toNat = 0) ∧
    ((single 1#32).rot = .single ∧ 0 < (single 1#32).rem.toNat ∧ (single 1#32).mode = modeBits .wave) ∧
    (due.rot = .continuous ∧ due.mode = modeBits .wave) ∧
    (Block.mode { due with mode := 0b11#2 } = 0b11#2) := by decide

theorem witness_first_expiry : due.fault = false ∧ due.run = .running ∧ 0 < due.tcnt.toNat ∧ 1 ≤ due.tcnt.toNat ∧
    due.rot = .continuous ∧ due.mode = modeBits .wave := by decide

theorem witness_steps_tint_apart : due.fault = false ∧ due.run = .running ∧ due.rot = .continuous ∧
    due.mode = modeBits .wave ∧ 1 ≤ due.tcnt.toNat ∧ 1 ≤ due.tint.toNat := by decide

/-- The first and the last step of a rotation of two. -/
theorem witness_single_rotation : (single 2#32).fault = false ∧ (single 2#32).run = .running ∧
    (single 2#32).rot = .single ∧ (single 2#32).mode = modeBits .wave ∧ 1 ≤ (single 2#32).tcnt.toNat ∧
    1 ≤ (single 2#32).tint.toNat ∧ 1 ≤ (single 2#32).rem.toNat ∧ 2 = (single 2#32).rem.toNat := by decide

theorem witness_coasting : (single 0#32).fault = false ∧ (single 0#32).run = .running ∧ (single 0#32).rot = .single ∧
    (single 0#32).rem = 0#32 ∧ 1 ≤ (single 0#32).tcnt.toNat := by decide

theorem witness_start : (stateOf due).block.fault = false ∧ (stateOf due).block.mode = modeBits .wave ∧
    1 ≤ (stateOf due).block.tcnt.toNat ∧ params.StepsPerRevOk Config.W := by decide

theorem witness_speed_command : due.fault = false ∧ due.run = .running ∧ due.LegalMode ∧ 0 < due.tcnt.toNat ∧
    1 ≤ due.tcnt.toNat := by decide

/-- Also from mode `0b11`, which the mode command repairs. -/
theorem witness_out_lags : due.StepDue ∧ Block.StepDue { due with mode := 0b11#2 } := by decide

theorem witness_run_state : due.mode = modeBits .wave ∧ runState (single 1#32) = .runningSingle 1#32 ∧
    (single 1#32).StepDue ∧ (single 1#32).LegalMode ∧ ¬ (due.StepDue ∧ due.rot = .single) := by decide

theorem witness_opcode_map : Instr.wellFormed .stop = true := by decide

/-- A command that changes each register which commands write, FAULT among them. -/
theorem witness_command_answers : after (exec .slower (stateOf due)) = some { due with tint := 10#32 } ∧
    after (exec .onef (stateOf { due with mode := 0b11#2 })) = some { due with mode := 0b11#2, fault := true } ∧
    after (exec .mfull (stateOf due)) = some { due with mode := 0b01#2 } ∧
    after (exec .stop (stateOf due)) = some { due with run := .stopped } ∧
    after (exec .oner (stateOf due)) = some { single 48#32 with dir := .reverse } := by decide

/-- A tick that changes POS, OUT, REM and TCNT, and one that changes FAULT. -/
theorem witness_tick_writes :
    tick params (single 2#32) = { single 1#32 with tcnt := 5#32, pos := 1#3, out := 0b0010#4 } ∧
    tick params { due with mode := 0b11#2 } = { due with mode := 0b11#2, fault := true } := by decide

theorem witness_coils_move :
    after (step { block := due, inputs := [tickCycle] }) = some { due with tcnt := 5#32, pos := 1#3, out := 0b0010#4 } ∧
    due.out ≠ 0b0010#4 := by decide

theorem witness_invariant_violation : Block.fault { due with mode := 0b11#2 } = false ∧
    Block.mode { due with mode := 0b11#2 } = 0b11#2 ∧ Block.StepDue { due with mode := 0b11#2 } ∧
    ¬ Block.StepDue { due with mode := 0b11#2, tcnt := 2#32 } := by decide

theorem witness_halted : (stateOf { due with fault := true }).block.fault = true ∧
    (∀ c ∈ [both 0x30#8, tickCycle], c.rst = false) ∧ Inputs.rst { tickCycle with rst := true } = true := by decide

theorem witness_reset_cycle : State.inputs { block := due, inputs := [{ both 0x31#8 with rst := true }] } =
    { both 0x31#8 with rst := true } :: [] ∧ Inputs.rst { both 0x31#8 with rst := true } = true := by decide

/-- A command's cycle with and without a tick. -/
theorem witness_step_runs_command :
    (commandCycle 0x30#8).rst = false ∧ (commandCycle 0x30#8).cmdValid = true ∧
    decode (commandCycle 0x30#8).cmd = .instr .stop ∧ (commandCycle 0x30#8).tick = false ∧
    (both 0x30#8).rst = false ∧ (both 0x30#8).cmdValid = true ∧ decode (both 0x30#8).cmd = .instr .stop ∧
    (both 0x30#8).tick = true := by decide

/-- A tick's cycle, a cycle without a strobe, and no cycle. -/
theorem witness_step_runs_tick :
    tickCycle.rst = false ∧ tickCycle.cmdValid = false ∧ tickCycle.tick = true ∧
    Inputs.tick { tickCycle with tick := false } = false ∧ (stateOf due).inputs = [] := by decide

theorem witness_same_cycle : (both 0x33#8).rst = false ∧ (both 0x33#8).tick = true ∧ (both 0x33#8).cmdValid = true := by
  decide

theorem witness_runs : ∀ c ∈ [both 0x33#8, tickCycle], c.rst = false := by decide

theorem witness_invariants : (stateOf due).Inv ∧
    after (step { block := due, inputs := [tickCycle] }) = some { due with tcnt := 5#32, pos := 1#3, out := 0b0010#4 } := by
  decide

theorem witness_all_parameters : params.WellFormed 8 ∧ (resetBlock params : Block 8).Inv params := by decide

end Sys2Proof.Tests
end

section
/-! The state after reset (R23): its registers field by field, and the run state that they make. -/

namespace Sys2Proof.Machine

variable {W : Nat}

/-- RUN alone decides that the block is stopped: ROT is not read then. -/
theorem runState_of_run_stopped {b : Block W} (h : b.run = .stopped) : runState b = .stopped := by
  simp [runState, h]

/-- The reset values of R23 as one block, for every width and set of parameters: POS and REM are 0, and TCNT starts at
the same value as TINT. -/
theorem resetBlock_eq (p : Params) : (resetBlock p : Block W) = {
    mode := modeBits p.resetMode, run := .stopped, dir := .forward, pos := 0#3, rot := .continuous
    rem := 0#W
    tint := BitVec.ofNat W p.initInterval
    tcnt := BitVec.ofNat W p.initInterval
    out := p.resetOut, fault := false } := rfl

/-- Settles O38: the state after reset holds the reset block of the parameters in force, whose RUN is Stopped. -/
theorem resetStateRegisters : Obligations.ResetStateRegisters := by
  unfold Obligations.ResetStateRegisters
  rw [State.reset_block]
  exact ⟨runState_of_run_stopped (resetBlock_run params), resetBlock_eq params⟩

end Sys2Proof.Machine
end

section
/-! The pattern ROM (R32, R33): which address a lookup reads, which table lies there, and where a read has no value. -/

namespace Sys2Proof.Machine

/-- The word of a table stands at the position's distance from the table's base, and the ROM backs that address. -/
theorem rom_getElem?_tableBase_add (rom : Rom) (m : DriveMode) (pos : Position) :
    rom[tableBase m + pos.toNat]? = some (romWord rom m pos) :=
  Vector.getElem?_eq_getElem (tableBase_add_lt m pos)

/-- The three tables lie one after another, from the addresses 0, 8 and 16. -/
theorem rom_getElem?_tables (rom : Rom) (pos : Position) :
    rom[pos.toNat]? = some (romWord rom .wave pos) ∧
    rom[8 + pos.toNat]? = some (romWord rom .fullStep pos) ∧
    rom[16 + pos.toNat]? = some (romWord rom .halfStep pos) := by
  refine ⟨?_, rom_getElem?_tableBase_add rom .fullStep pos, rom_getElem?_tableBase_add rom .halfStep pos⟩
  simpa only [tableBase, Nat.zero_add] using rom_getElem?_tableBase_add rom .wave pos

/-- No word backs the addresses from 24 up, and a word backs each address below (R33). -/
theorem memRead_eq_none_iff (rom : Rom) (addr : RomAddress) : memRead rom addr = none ↔ 24 ≤ addr.toNat :=
  Vector.getElem?_eq_none_iff

/-- Settles O6, from the address as a number and the place of each table. A read at the address of a drive mode is
`patternFor` by definition, so that one lemma serves both clauses. -/
theorem romReadAtModeAndPosition : Obligations.RomReadAtModeAndPosition := by
  unfold Obligations.RomReadAtModeAndPosition
  exact ⟨romAddress_toNat, rom_getElem?_tables, patternFor_modeBits, memRead_eq_none_iff, patternFor_modeBits,
    patternFor_illegal⟩

end Sys2Proof.Machine
end

section
/-! Unrecognised bytes (R48, R52): which bytes decode to no command, and what the delivery of one does. -/

namespace Sys2Proof.Machine

variable {W : Nat}

/-- A byte that differs from the ten values of R46 fails every test of the decoder. -/
theorem decode_eq_ignore_of_not_mem {byte : Byte}
    (h : byte ∉ [0x30#8, 0x31#8, 0x32#8, 0x33#8, 0x34#8, 0x61#8, 0x73#8, 0x64#8, 0x71#8, 0x77#8]) :
    decode byte = .ignore := by
  simp only [List.mem_cons, List.not_mem_nil, or_false, not_or] at h
  simp only [decode, h, if_false]

/-- The delivery of an unrecognised byte changes no register (R48). -/
theorem receive_of_decode_eq_ignore (p : Params) {byte : Byte} (h : decode byte = .ignore) (b : Block W) :
    receive p byte b = b := by
  simp only [receive, h]

/-- A cycle that presents a byte and nothing else is the delivery of that byte (R86). -/
theorem applyCycle_commandCycle (p : Params) (byte : Byte) (b : Block W) :
    applyCycle p (commandCycle byte) b = receive p byte b := rfl

/-- Settles O5: such a byte decodes to no command, so its delivery keeps the block, as an event and as the whole of a
clock cycle. -/
theorem unrecognisedByteIsIgnored : Obligations.UnrecognisedByteIsIgnored := by
  unfold Obligations.UnrecognisedByteIsIgnored
  intro byte hbyte
  have hdecode : decode byte = .ignore := decode_eq_ignore_of_not_mem hbyte
  refine ⟨hdecode, fun W p b => receive_of_decode_eq_ignore p hdecode b, fun s rest hinputs => ?_⟩
  rw [step_cons hinputs, applyCycle_commandCycle, receive_of_decode_eq_ignore params hdecode]

end Sys2Proof.Machine
end

section
/-! The steps of one rotation (R54): the number for each MODE, and why the count that a single rotation loads is exact. -/

namespace Sys2Proof.Machine

@[simp] theorem stepsForOneRotation_modeBits (m : DriveMode) (w : Nat) :
    stepsForOneRotation (modeBits m) w = some (modeSteps w m) := by
  simp only [stepsForOneRotation, driveMode?_modeBits, Option.map_some]

@[simp] theorem stepsForOneRotation_illegal (w : Nat) : stepsForOneRotation 0b11#2 w = none := rfl

/-- The half-step table makes the longest rotation. -/
theorem modeSteps_le (w : Nat) (m : DriveMode) : modeSteps w m ≤ 2 * w := by
  cases m <;> simp only [modeSteps] <;> omega

theorem stepsForOneRotation_le {mode : ModeBits} {w n : Nat} (h : stepsForOneRotation mode w = some n) :
    n ≤ 2 * w := by
  obtain ⟨m, rfl⟩ | rfl := mode_cases mode
  · rw [stepsForOneRotation_modeBits] at h
    obtain rfl := Option.some.inj h
    exact modeSteps_le w m
  · cases h

/-- Where twice STEPS_PER_REV fits the width, narrowing the number of steps to the width of REM loses nothing (R5). -/
theorem rotationSteps_exact {W : Nat} {p : Params} (hp : p.StepsPerRevOk W) {mode : ModeBits} {n : Nat}
    (h : stepsForOneRotation mode p.stepsPerRev = some n) :
    ∃ v : BitVec W, rotationSteps p mode = some v ∧ v.toNat = n := by
  obtain ⟨-, hfits⟩ := hp
  have hn : n ≤ 2 * p.stepsPerRev := stepsForOneRotation_le h
  have hlt : n < 2 ^ W := by
    have := Nat.two_pow_pos W
    omega
  refine ⟨BitVec.ofNat W n, by rw [rotationSteps, h, Option.map_some], ?_⟩
  rw [BitVec.toNat_ofNat, Nat.mod_eq_of_lt hlt]

/-- Settles O8: one lemma gives the number in each of the three drive modes, and the loaded count is exact because no
rotation is longer than twice STEPS_PER_REV. The namespace keeps the name apart from the function of the model. -/
theorem PatternGenerator.stepsForOneRotation : Obligations.StepsForOneRotation := by
  unfold Obligations.StepsForOneRotation
  exact ⟨fun w => ⟨stepsForOneRotation_modeBits .wave w, stepsForOneRotation_modeBits .fullStep w,
    stepsForOneRotation_modeBits .halfStep w, stepsForOneRotation_illegal w⟩,
    fun W p hp mode n => rotationSteps_exact hp⟩

end Sys2Proof.Machine
end

section
/-! The invariant violation (R56, R82): which events raise it in mode `0b11`, and that no other event writes FAULT. -/

namespace Sys2Proof.Machine

variable {W : Nat}

/-- A due step finds no pattern in mode `0b11`, and the whole tick is discarded: TCNT and REM are as before it. -/
theorem tick_illegal_of_stepDue (p : Params) {b : Block W} (hmode : b.mode = 0b11#2) (hdue : b.StepDue) :
    tick p b = { b with fault := true } := by
  obtain ⟨⟨hfault, hrun, hexp⟩, hstep⟩ := hdue
  rcases tick_cases p b with ⟨hoff, -⟩ | ⟨-, -, hcount, -⟩ | ⟨-, hrot, hrem, -⟩ | ⟨m, hm, -, -⟩ | ⟨-, -, htick⟩
  · simp [hfault, hrun] at hoff
  · exact absurd hexp hcount
  · simp [hrot, hrem] at hstep
  · exact absurd (hm.symm.trans hmode) (modeBits_ne_illegal m)
  · exact htick

/-- Without a due step a tick looks up no pattern and leaves FAULT alone, in every mode. -/
theorem tick_fault_of_not_stepDue (p : Params) {b : Block W} (hdue : ¬ b.StepDue) :
    (tick p b).fault = b.fault := by
  rcases tick_cases p b with ⟨-, htick⟩ | ⟨-, -, -, htick⟩ | ⟨-, -, -, htick⟩ | ⟨_, _, hd, _⟩ | ⟨_, hd, _⟩
  · rw [htick]
  · rw [htick]
  · rw [htick]
  · exact absurd hd hdue
  · exact absurd hd hdue

/-- A command other than the two single rotations leaves FAULT alone, in every mode. -/
theorem perform_fault (p : Params) {i : Instr} (honef : i ≠ .onef) (honer : i ≠ .oner) (b : Block W) :
    (perform p i b).fault = b.fault := by
  cases i
  case onef => exact absurd rfl honef
  case oner => exact absurd rfl honer
  all_goals rfl

/-- A mode command writes the encoding of a drive mode, whatever MODE held. -/
theorem perform_modeCommand_legalMode (p : Params) {i : Instr} (hi : i ∈ [Instr.mwave, .mfull, .mhalf])
    (b : Block W) : (perform p i b).LegalMode := by
  have hsel : ∃ m, perform p i b = selectMode m b := by
    simp only [List.mem_cons, List.not_mem_nil, or_false] at hi
    rcases hi with rfl | rfl | rfl
    exacts [⟨.wave, rfl⟩, ⟨.fullStep, rfl⟩, ⟨.halfStep, rfl⟩]
  obtain ⟨m, hm⟩ := hsel
  rw [hm]
  exact modeBits_ne_illegal m

/-- Settles O35: in mode `0b11` the two pure functions have no value, so a due step and the two single rotations set
FAULT alone; every other event keeps FAULT, and each mode command selects a drive mode. -/
theorem invariantViolationIsRaised : Obligations.InvariantViolationIsRaised := by
  unfold Obligations.InvariantViolationIsRaised
  intro W p b hfault hmode
  refine ⟨fun pos => ?pattern, fun w => ?steps, tick_illegal_of_stepDue p hmode, runSingle_illegal p .forward hmode,
    runSingle_illegal p .reverse hmode, fun hdue => ?tick, fun i honef honer => ?command,
    fun i hi => perform_modeCommand_legalMode p hi b⟩
  case pattern => rw [hmode, patternFor_illegal]
  case steps => rw [hmode, stepsForOneRotation_illegal]
  case tick => rw [tick_fault_of_not_stepDue p hdue, hfault]
  case command => rw [perform_fault p honef honer, hfault]

end Sys2Proof.Machine
end

section
/-! The Phase Driver (R57): what the port shows after a pattern is applied, and which bit of the port each line is. -/

namespace Sys2Proof.Machine

variable {W : Nat}

/-- The pattern applied last is what the port shows, whatever stood in OUT (R25). -/
@[simp] theorem coil_applyPattern (w : Pattern) (b : Block W) : coil (applyPattern w b) = w := applyPattern_out w b

/-! The order of the four lines on the port, from the most significant bit down (R18). -/

theorem coilA1_eq_coil_bit (b : Block W) : coilA1 b = (coil b).getLsbD 3 := rfl
theorem coilA2_eq_coil_bit (b : Block W) : coilA2 b = (coil b).getLsbD 2 := rfl
theorem coilB1_eq_coil_bit (b : Block W) : coilB1 b = (coil b).getLsbD 1 := rfl
theorem coilB2_eq_coil_bit (b : Block W) : coilB2 b = (coil b).getLsbD 0 := rfl

/-- Settles O9: the Phase Driver is the write of OUT alone, the port shows the pattern written, and each of the four
lines is its bit of the port. -/
theorem phaseDriverWritesFourLines : Obligations.PhaseDriverWritesFourLines := by
  unfold Obligations.PhaseDriverWritesFourLines
  intro W w b
  have hport : coil (applyPattern w b) = w := coil_applyPattern w b
  refine ⟨rfl, hport, ?a1, ?a2, ?b1, ?b2⟩
  case a1 => rw [coilA1_eq_coil_bit, hport]
  case a2 => rw [coilA2_eq_coil_bit, hport]
  case b1 => rw [coilB1_eq_coil_bit, hport]
  case b2 => rw [coilB2_eq_coil_bit, hport]

end Sys2Proof.Machine
end

section
/-! The step of the motor (R63, R64): the new position as a number, in each direction. -/

namespace Sys2Proof.Machine

theorem advance_forward_toNat (pos : Position) : (advance .forward pos).toNat = (pos.toNat + 1) % 8 :=
  BitVec.toNat_add pos 1#3

/-- Modulo 8 over the integers, so that position 0 has a predecessor, which is 7. -/
theorem advance_reverse_toNat (pos : Position) :
    ((advance .reverse pos).toNat : Int) = ((pos.toNat : Int) - 1) % 8 := by
  have hsub : (advance .reverse pos).toNat = (8 - 1 + pos.toNat) % 8 := BitVec.toNat_sub pos 1#3
  omega

/-- Settles O20: the step's equation in a drive mode gives the whole block, and the two lemmas above read its position
as a number. -/
theorem stepMovesPosAndWritesOut : Obligations.StepMovesPosAndWritesOut := by
  unfold Obligations.StepMovesPosAndWritesOut
  intro W p b
  refine ⟨fun m hmode hdir => ?forward, fun m hmode hdir => ?reverse, motorStep_illegal p⟩
  case forward => exact ⟨_, advance_forward_toNat b.pos, by rw [motorStep_modeBits p hmode, hdir]⟩
  case reverse => exact ⟨_, advance_reverse_toNat b.pos, by rw [motorStep_modeBits p hmode, hdir]⟩

end Sys2Proof.Machine
end

section
/-! The event TICK as equations (R60): one for a block that it leaves alone, one for the countdown, and one for each
outcome of an expiry. -/

namespace Sys2Proof.Machine

variable {W : Nat}

/-- The decrement of a register as the number that R60 writes, at every width and also from 0. -/
theorem countDown_eq_ofNat (c : BitVec W) : countDown c = BitVec.ofNat W ((c.toNat + (2 ^ W - 1)) % 2 ^ W) := by
  apply BitVec.eq_of_toNat_eq
  rw [countDown, BitVec.toNat_sub, BitVec.toNat_ofNat, BitVec.toNat_ofNat, Nat.mod_mod]
  rcases Nat.eq_zero_or_pos W with rfl | hW
  · simp only [Nat.pow_zero, Nat.mod_one]
  · rw [Nat.mod_eq_of_lt (Nat.one_lt_two_pow hW.ne'), Nat.add_comm]

theorem countDown_eq_zero_iff (c : BitVec W) : countDown c = 0#W ↔ (c.toNat + (2 ^ W - 1)) % 2 ^ W = 0 := by
  rw [countDown_eq_ofNat, ← BitVec.toNat_inj, BitVec.toNat_ofNat, BitVec.toNat_ofNat, Nat.mod_mod, Nat.zero_mod]

/-- Where the decrement is guarded against 0, it is exact. -/
theorem countDown_eq_ofNat_pred {c : BitVec W} (h : 0 < c.toNat) : countDown c = BitVec.ofNat W (c.toNat - 1) := by
  rw [← countDown_toNat h, BitVec.ofNat_toNat, BitVec.setWidth_eq]

theorem tick_of_halted_or_stopped (p : Params) {b : Block W} (h : b.fault = true ∨ b.run = .stopped) :
    tick p b = b := by
  rcases h with hfault | hrun
  · exact unlessHalted_halted _ hfault
  · simp only [tick, unlessHalted, tickRunning, hrun, ite_self]

/-- Running and not halted, a tick counts down or is an expiry. -/
theorem tick_of_running (p : Params) {b : Block W} (hfault : b.fault = false) (hrun : b.run = .running) :
    tick p b = if countDown b.tcnt = 0#W then expire p b else { b with tcnt := countDown b.tcnt } := by
  rw [tick, unlessHalted_live _ hfault, tickRunning, hrun]

theorem tick_of_counting (p : Params) {b : Block W} (hfault : b.fault = false) (hrun : b.run = .running)
    (hcount : countDown b.tcnt ≠ 0#W) : tick p b = { b with tcnt := countDown b.tcnt } := by
  rw [tick_of_running p hfault hrun, if_neg hcount]

theorem tick_of_expiring (p : Params) {b : Block W} (h : b.Expiring) : tick p b = expire p b := by
  obtain ⟨hfault, hrun, hzero⟩ := h
  rw [tick_of_running p hfault hrun, if_pos hzero]

/-- With no steps left an expiry reloads the divider and nothing else, in every mode (R62). -/
theorem expire_coasting (p : Params) {b : Block W} (hrot : b.rot = .single) (hrem : b.rem = 0#W) :
    expire p b = { b with tcnt := b.tint } := by
  simp only [expire, hrot, hrem, if_true]

theorem expire_single (p : Params) {b : Block W} {m : DriveMode} (hmode : b.mode = modeBits m)
    (hrot : b.rot = .single) (hrem : b.rem ≠ 0#W) :
    expire p b = { b with
      tcnt := b.tint
      rem := countDown b.rem
      pos := advance b.dir b.pos
      out := romWord p.rom m (advance b.dir b.pos) } := by
  simp only [expire, hrot, hrem, if_false, motorStep_modeBits p (m := m), hmode, orRaise]

/-- A Continuous step leaves REM alone, whatever it holds. -/
theorem expire_continuous (p : Params) {b : Block W} {m : DriveMode} (hmode : b.mode = modeBits m)
    (hrot : b.rot = .continuous) :
    expire p b = { b with
      tcnt := b.tint
      pos := advance b.dir b.pos
      out := romWord p.rom m (advance b.dir b.pos) } := by
  simp only [expire, hrot, motorStep_modeBits p (m := m), hmode, orRaise]

/-- Settles O22: one equation for each case of the algorithm, and the numbers of the statement are those of the
registers' decrements. -/
theorem tickFollowsTheAlgorithm : Obligations.TickFollowsTheAlgorithm := by
  unfold Obligations.TickFollowsTheAlgorithm
  intro W p b
  refine ⟨tick_of_halted_or_stopped p, fun hfault hrun => ?_⟩
  simp only [← countDown_eq_ofNat, ← countDown_eq_zero_iff, ne_eq]
  have hpos : 0 < b.rem.toNat → b.rem ≠ 0#W := fun h => BitVec.toNat_ne_iff_ne.mp h.ne'
  refine ⟨tick_of_counting p hfault hrun, fun hzero hrot hrem => ?coast, fun hzero m hmode =>
    ⟨fun hrot hrem => ?single, fun hrot => ?continuous⟩, fun hzero hmode hstep => ?illegal⟩
  case coast => rw [tick_of_expiring p ⟨hfault, hrun, hzero⟩, expire_coasting p hrot (BitVec.eq_of_toNat_eq hrem)]
  case single =>
    rw [tick_of_expiring p ⟨hfault, hrun, hzero⟩, expire_single p hmode hrot (hpos hrem), countDown_eq_ofNat_pred hrem]
  case continuous => rw [tick_of_expiring p ⟨hfault, hrun, hzero⟩, expire_continuous p hmode hrot]
  case illegal => exact tick_illegal_of_stepDue p hmode ⟨⟨hfault, hrun, hzero⟩, hstep.imp_right hpos⟩

end Sys2Proof.Machine
end

section
/-! The run commands '0' to '4' (R67 to R71): the next state of each in a block that is not halted, and the ticks after
a stop. -/

namespace Sys2Proof.Machine

variable {W : Nat}

/-- In a block that is not halted a command is exactly its effect on the registers, and the inputs stay. -/
theorem exec_live (i : Instr) {s : State} (hfault : s.block.fault = false) :
    exec i s = .next (s.withBlock (perform params i s.block)) := by
  rw [exec_eq, unlessHalted_live _ hfault]

/-- Nothing starts a stopped block but a command: a tick keeps it, so any number of ticks does. -/
theorem ticks_of_run_stopped (p : Params) {b : Block W} (hrun : b.run = .stopped) (n : Nat) : ticks p n b = b := by
  induction n with
  | zero => rfl
  | succ n ih => rw [ticks_succ, ih, tick_of_halted_or_stopped p (.inr hrun)]

/-- A command whose effect is a single rotation: in a drive mode it writes four registers at once (R40), and in mode
`0b11` it finds no count to load, so that FAULT is all it writes (R56, R82). -/
theorem exec_of_perform_eq_runSingle {i : Instr} {d : Direction}
    (hi : perform (W := Config.W) params i = runSingle params d) {s : State} (hfault : s.block.fault = false) :
    (∀ m, s.block.mode = modeBits m →
      exec i s = .next { s with block := { s.block with
        rot := .single, rem := BitVec.ofNat Config.W (modeSteps params.stepsPerRev m), dir := d, run := .running } }) ∧
    (s.block.mode = 0b11#2 → exec i s = .next { s with block := { s.block with fault := true } }) := by
  rw [exec_live i hfault, hi]
  refine ⟨fun m hmode => ?drive, fun hmode => ?illegal⟩
  case drive => rw [runSingle_modeBits params d hmode, State.withBlock]
  case illegal => rw [runSingle_illegal params d hmode, State.withBlock, raiseInvariantViolation]

/-- Settles O10: the command writes RUN alone, and the ticks after it find RUN = Stopped. -/
theorem stopWritesRunOnly : Obligations.StopWritesRunOnly := by
  unfold Obligations.StopWritesRunOnly
  intro s hfault
  exact ⟨exec_live .stop hfault, ticks_of_run_stopped params (stop_run s.block)⟩

/-- Settles O13: Wave and FullStep load the same count, HalfStep the doubled one, and mode `0b11` raises the violation. -/
theorem oneRotationForward : Obligations.OneRotationForward := by
  unfold Obligations.OneRotationForward
  intro s hfault
  obtain ⟨hdrive, hillegal⟩ := exec_of_perform_eq_runSingle (i := .onef) (d := .forward) rfl hfault
  exact ⟨fun hmode => hmode.elim (hdrive .wave) (hdrive .fullStep), hdrive .halfStep, hillegal⟩

/-- Settles O14: as for the forward rotation, whose count does not depend on the direction. -/
theorem oneRotationReverse : Obligations.OneRotationReverse := by
  unfold Obligations.OneRotationReverse
  intro s hfault
  obtain ⟨hdrive, hillegal⟩ := exec_of_perform_eq_runSingle (i := .oner) (d := .reverse) rfl hfault
  exact ⟨fun hmode => hmode.elim (hdrive .wave) (hdrive .fullStep), hdrive .halfStep, hillegal⟩

/-- Settles O11: unbounded motion forward, as a whole next state. -/
theorem runForwardWritesThreeFlags : Obligations.RunForwardWritesThreeFlags := by
  unfold Obligations.RunForwardWritesThreeFlags
  intro s hfault
  exact exec_live .runf hfault

/-- Settles O12: unbounded motion in reverse, as a whole next state. -/
theorem runReverseWritesThreeFlags : Obligations.RunReverseWritesThreeFlags := by
  unfold Obligations.RunReverseWritesThreeFlags
  intro s hfault
  exact exec_live .runr hfault

end Sys2Proof.Machine
end

section
/-! The drive-mode commands 'a', 's' and 'd' (R73 to R75): the next state of each in a block that is not halted. -/

namespace Sys2Proof.Machine

/-- Settles O15: no mode command reads MODE, so each selects its drive mode in mode `0b11` too and writes nothing else. -/
theorem modeCommandsWriteModeOnly : Obligations.ModeCommandsWriteModeOnly := by
  unfold Obligations.ModeCommandsWriteModeOnly
  intro s hfault
  exact ⟨exec_live .mwave hfault, exec_live .mfull hfault, exec_live .mhalf hfault⟩

end Sys2Proof.Machine
end

section
/-! The speed commands 'q' and 'w' (R77, R78): the next state of each in a block that is not halted. -/

namespace Sys2Proof.Machine

variable {W : Nat}

/-- The guard of decision D12 read from its other side: a sum that does not fit is not written. -/
theorem slowerInterval_of_overflow {p : Params} {tint : BitVec W} (h : 2 ^ W - 1 < tint.toNat + p.speedStep) :
    slowerInterval p tint = tint :=
  if_neg h.not_ge

theorem slower_of_overflow {p : Params} {b : Block W} (h : 2 ^ W - 1 < b.tint.toNat + p.speedStep) :
    slower p b = b := by
  rw [slower, slowerInterval_of_overflow h]

/-- The clamp over the integers (decision D13): a difference below 0 is below the floor as well, so that the truncated
difference of `fasterInterval_toNat` has the same maximum. -/
theorem fasterInterval_natCast_toNat {p : Params} (hmin : p.minInterval < 2 ^ W) (tint : BitVec W) :
    ((fasterInterval p tint).toNat : Int) = max ((tint.toNat : Int) - p.speedStep) p.minInterval := by
  rw [fasterInterval_toNat hmin]
  omega

theorem params_minInterval_lt : params.minInterval < 2 ^ Config.W := by decide

/-- Settles O16: the two sides of the guard are the two clauses, and on the far side the effect is the identity. -/
theorem slowerAddsUnlessSumTooWide : Obligations.SlowerAddsUnlessSumTooWide := by
  unfold Obligations.SlowerAddsUnlessSumTooWide
  intro s hfault
  refine ⟨fun hfits => ⟨slowerInterval params s.block.tint, ?sum, exec_live .slower hfault⟩, fun hover => ?skip⟩
  case sum => rw [slowerInterval_toNat, if_pos hfits]
  case skip => rw [exec_live .slower hfault, perform, slower_of_overflow hover, State.withBlock_self]

/-- Settles O17: the floor fits the width, so that the clamped difference is what TINT holds. -/
theorem fasterClampsAtMinimum : Obligations.FasterClampsAtMinimum := by
  unfold Obligations.FasterClampsAtMinimum
  intro s hfault
  exact ⟨fasterInterval params s.block.tint, fasterInterval_natCast_toNat params_minInterval_lt _,
    exec_live .faster hfault⟩

end Sys2Proof.Machine
end

section
/-! A tick and a command in one clock cycle (R89): the cycle's events, and the same events in two cycles, tick first. -/

namespace Sys2Proof.Machine

variable {W : Nat}

/-- A trace cut in two is its first part and then, from the registers it leaves, the second (R38). -/
theorem applyTrace_append (p : Params) (es fs : List Event) (b : Block W) :
    applyTrace p (es ++ fs) b = applyTrace p fs (applyTrace p es b) := by
  induction es generalizing b with
  | nil => rfl
  | cons e es ih => exact ih (applyEvent p e b)

/-- A cycle's events are its tick's and then its command's: each strobe may have a cycle of its own, tick first. -/
theorem cycleEvents_eq_tick_append_command (c : Inputs) :
    cycleEvents c = cycleEvents { c with cmdValid := false } ++ cycleEvents { c with tick := false } := by
  cases hrst : c.rst <;> simp [cycleEvents, hrst]

/-- A cycle without reset is the trace of its events (R89, R98). -/
theorem applyCycle_of_not_reset (p : Params) {c : Inputs} (hrst : c.rst = false) (b : Block W) :
    applyCycle p c b = applyTrace p (cycleEvents c) b := by
  simp [applyCycle, hrst]

/-- One cycle for both strobes or two cycles, tick first (R89, decision D3). No premise on `rst` is needed: under reset
both of the two cycles reset the block (R100). -/
theorem applyCycle_eq_tick_then_command (p : Params) (c : Inputs) (b : Block W) :
    applyCycle p c b = applyCycle p { c with tick := false } (applyCycle p { c with cmdValid := false } b) := by
  obtain hrst | hrst := c.rst.eq_false_or_eq_true
  · simp [applyCycle, hrst]
  · rw [applyCycle_of_not_reset p hrst, cycleEvents_eq_tick_append_command c, applyTrace_append,
      applyCycle_of_not_reset p (c := { c with cmdValid := false }) hrst,
      applyCycle_of_not_reset p (c := { c with tick := false }) hrst]

/-- The registers after a cycle with both strobes: `CMD(cmd)(TICK(current))`. -/
theorem applyCycle_of_both_strobes (p : Params) {c : Inputs} (hrst : c.rst = false) (htick : c.tick = true)
    (hcmd : c.cmdValid = true) (b : Block W) :
    applyCycle p c b = applyEvent p (.cmd c.cmd) (applyEvent p .tick b) := by
  have hevents : cycleEvents c = [.tick, .cmd c.cmd] := by simp [cycleEvents, hrst, htick, hcmd]
  rw [applyCycle_of_not_reset p hrst, hevents, applyTrace, applyTrace, applyTrace]

/-- Settles O41: the step is the cycle's two events, and the cycle split into a tick's and a command's leaves the same
registers. -/
theorem sameCycleIsTickThenCommand : Obligations.SameCycleIsTickThenCommand := by
  unfold Obligations.SameCycleIsTickThenCommand
  intro s c rest hinputs hrst htick hcmd
  refine ⟨_, _, step_cons hinputs, applyCycle_of_both_strobes params hrst htick hcmd s.block, rfl, step_cons rfl, ?_⟩
  rw [step_cons rfl, ← applyCycle_eq_tick_then_command]

end Sys2Proof.Machine
end

section
/-! A clock cycle with `rst` = 1 (R98): neither the registers before it nor the strobes beside it reach the registers
after it (R100). -/

namespace Sys2Proof.Machine

variable {W : Nat}

/-- A cycle with reset leaves the reset values, from every block and beside every strobe (R98, R100). -/
theorem applyCycle_of_reset (p : Params) {c : Inputs} (hrst : c.rst = true) (b : Block W) :
    applyCycle p c b = resetBlock p := by
  simp [applyCycle, hrst]

/-- Settles O37: the step applies the cycle at the head of the inputs, and a cycle with reset leaves the reset block,
whose ten registers hold the values of R23. -/
theorem resetOverridesStrobes : Obligations.ResetOverridesStrobes := by
  unfold Obligations.ResetOverridesStrobes
  intro s c rest hinputs hrst
  rw [step_cons hinputs, applyCycle_of_reset params hrst, resetBlock_eq]

end Sys2Proof.Machine
end

section
/-! The opcode map in both directions (R44, R46): the decoder undoes the encoder, and no other byte decodes to a
command. -/

namespace Sys2Proof

@[simp] theorem decode_encode (i : Instr) : decode (encode i) = .instr i := by
  cases i <;> rfl

/-- The ten values that the decoder tests for are the commands' bytes. -/
theorem exists_eq_encode_of_decode_ne_ignore {byte : Byte} (h : decode byte ≠ .ignore) : ∃ i, byte = encode i := by
  have hten : byte ∈ [Instr.stop, .runf, .runr, .onef, .oner, .mwave, .mfull, .mhalf, .slower, .faster].map encode :=
    Decidable.not_not.mp fun hbyte => h (Machine.decode_eq_ignore_of_not_mem hbyte)
  obtain ⟨i, -, hi⟩ := List.mem_map.mp hten
  exact ⟨i, hi.symm⟩

theorem decode_eq_instr_iff (byte : Byte) (i : Instr) : decode byte = .instr i ↔ byte = encode i := by
  refine ⟨fun h => ?_, fun h => h ▸ decode_encode i⟩
  obtain ⟨j, rfl⟩ := exists_eq_encode_of_decode_ne_ignore (byte := byte) (by simp [h])
  rw [decode_encode] at h
  rw [Decoded.instr.inj h]

/-- A table word is read through the decoder, once it is one byte long. -/
theorem decodeTableWord_eq_some_iff_decode (nbits w : Nat) (i : Instr) :
    decodeTableWord nbits w = some i ↔ (nbits = 8 ∧ w < 2 ^ 8) ∧ decode (BitVec.ofNat 8 w) = .instr i := by
  unfold decodeTableWord
  split
  case isTrue hlen => cases decode (BitVec.ofNat 8 w) <;> simp only [hlen, and_self, true_and, Option.some.injEq,
      Decoded.instr.injEq, reduceCtorEq]
  case isFalse hlen => simp only [hlen, false_and, reduceCtorEq]

/-- A byte's number, within eight bits, is the word that the byte was read from. -/
theorem decodeTableWord_eq_some_iff (nbits w : Nat) (i : Instr) :
    decodeTableWord nbits w = some i ↔ nbits = 8 ∧ w = (encode i).toNat := by
  rw [decodeTableWord_eq_some_iff_decode, decode_eq_instr_iff, and_assoc]
  refine and_congr_right fun _ => ⟨fun ⟨hw, hbyte⟩ => ?read, fun hw => ?written⟩
  case read => rw [← hbyte, BitVec.toNat_ofNat, Nat.mod_eq_of_lt hw]
  case written => exact ⟨hw ▸ (encode i).isLt, by rw [hw, BitVec.ofNat_toNat, BitVec.setWidth_eq]⟩

/-- Settles O3: the decoder undoes the encoder, only the ten bytes pass its tests, and a table word of one byte is that
byte. -/
theorem opcodeMapIsExact : Obligations.OpcodeMapIsExact := by
  unfold Obligations.OpcodeMapIsExact
  exact ⟨fun i _ => decode_encode i, decode_eq_instr_iff, decodeTableWord_eq_some_iff⟩

/-- Settles O4: the ten bytes of the table are the encoder's, bit for bit. -/
theorem tenCommandBytesDecode : Obligations.TenCommandBytesDecode := by
  unfold Obligations.TenCommandBytesDecode
  exact ⟨decode_encode .stop, decode_encode .runf, decode_encode .runr, decode_encode .onef, decode_encode .oner,
    decode_encode .mwave, decode_encode .mfull, decode_encode .mhalf, decode_encode .slower, decode_encode .faster⟩

end Sys2Proof
end

section
/-! Everything that a command's effect and the delivery of a byte can do, said once, and the frame of every command
(R21). -/

namespace Sys2Proof.Machine

variable {W : Nat}

/-- A single rotation loads its count in a drive mode and is the invariant violation in mode `0b11` (R56, R70, R71). -/
theorem runSingle_cases (p : Params) (d : Direction) (b : Block W) :
    (∃ m, b.mode = modeBits m ∧
      runSingle p d b =
        { b with rot := .single, rem := BitVec.ofNat W (modeSteps p.stepsPerRev m), dir := d, run := .running }) ∨
    (b.mode = 0b11#2 ∧ runSingle p d b = raiseInvariantViolation b) := by
  obtain ⟨m, hmode⟩ | hmode := mode_cases b.mode
  · exact .inl ⟨m, hmode, runSingle_modeBits p d hmode⟩
  · exact .inr ⟨hmode, runSingle_illegal p d hmode⟩

/-- The cases of a command's effect: a stop; a start; a rotation in a drive mode; a rotation in mode `0b11`; a mode
command; a speed command, whose TINT is one of two. -/
theorem perform_cases (p : Params) (i : Instr) (b : Block W) :
    (i = .stop ∧ perform p i b = stop b) ∨
    (i ∈ [Instr.runf, .runr] ∧ ∃ d, perform p i b = runContinuous d b) ∨
    (i ∈ [Instr.onef, .oner] ∧ ∃ d m, b.mode = modeBits m ∧
      perform p i b =
        { b with rot := .single, rem := BitVec.ofNat W (modeSteps p.stepsPerRev m), dir := d, run := .running }) ∨
    (i ∈ [Instr.onef, .oner] ∧ b.mode = 0b11#2 ∧ perform p i b = raiseInvariantViolation b) ∨
    (i ∈ [Instr.mwave, .mfull, .mhalf] ∧ ∃ m, perform p i b = selectMode m b) ∨
    (i ∈ [Instr.slower, .faster] ∧ ∃ t, (t = slowerInterval p b.tint ∨ t = fasterInterval p b.tint) ∧
      perform p i b = { b with tint := t }) := by
  cases i
  case stop => exact .inl ⟨rfl, rfl⟩
  case runf => exact .inr (.inl ⟨by decide, .forward, rfl⟩)
  case runr => exact .inr (.inl ⟨by decide, .reverse, rfl⟩)
  case onef =>
    obtain ⟨m, hmode, heq⟩ | hillegal := runSingle_cases p .forward b
    · exact .inr (.inr (.inl ⟨by decide, .forward, m, hmode, heq⟩))
    · exact .inr (.inr (.inr (.inl ⟨by decide, hillegal⟩)))
  case oner =>
    obtain ⟨m, hmode, heq⟩ | hillegal := runSingle_cases p .reverse b
    · exact .inr (.inr (.inl ⟨by decide, .reverse, m, hmode, heq⟩))
    · exact .inr (.inr (.inr (.inl ⟨by decide, hillegal⟩)))
  case mwave => exact .inr (.inr (.inr (.inr (.inl ⟨by decide, .wave, rfl⟩))))
  case mfull => exact .inr (.inr (.inr (.inr (.inl ⟨by decide, .fullStep, rfl⟩))))
  case mhalf => exact .inr (.inr (.inr (.inr (.inl ⟨by decide, .halfStep, rfl⟩))))
  case slower => exact .inr (.inr (.inr (.inr (.inr ⟨by decide, _, .inl rfl, rfl⟩))))
  case faster => exact .inr (.inr (.inr (.inr (.inr ⟨by decide, _, .inr rfl, rfl⟩))))

/-- No command writes TCNT, POS or OUT (R93). -/
theorem perform_untouched (p : Params) (i : Instr) (b : Block W) :
    (perform p i b).tcnt = b.tcnt ∧ (perform p i b).pos = b.pos ∧ (perform p i b).out = b.out := by
  rcases perform_cases p i b with ⟨-, heq⟩ | ⟨-, d, heq⟩ | ⟨-, d, m, -, heq⟩ | ⟨-, -, heq⟩ | ⟨-, m, heq⟩ |
    ⟨-, t, -, heq⟩ <;>
  exact heq ▸ ⟨rfl, rfl, rfl⟩

/-- The registers that a single rotation leaves alone (R70, R71), and that it writes FAULT in mode `0b11` alone. -/
theorem runSingle_frame (p : Params) (d : Direction) (b : Block W) :
    (runSingle p d b).mode = b.mode ∧ (runSingle p d b).tint = b.tint ∧
    ((runSingle p d b).fault ≠ b.fault → b.mode = 0b11#2) := by
  rcases runSingle_cases p d b with ⟨m, -, heq⟩ | ⟨hmode, heq⟩
  · exact heq ▸ ⟨rfl, rfl, fun hfault => absurd rfl hfault⟩
  · exact heq ▸ ⟨rfl, rfl, fun _ => hmode⟩

/-- The commands that write each of the other registers (R93). -/
theorem perform_writers (p : Params) (i : Instr) (b : Block W) :
    ((perform p i b).mode ≠ b.mode → i ∈ [Instr.mwave, .mfull, .mhalf]) ∧
    ((perform p i b).run ≠ b.run → i ∈ [Instr.stop, .runf, .runr, .onef, .oner]) ∧
    ((perform p i b).dir ≠ b.dir → i ∈ [Instr.runf, .runr, .onef, .oner]) ∧
    ((perform p i b).rot ≠ b.rot → i ∈ [Instr.runf, .runr, .onef, .oner]) ∧
    ((perform p i b).rem ≠ b.rem → i ∈ [Instr.onef, .oner]) ∧
    ((perform p i b).tint ≠ b.tint → i ∈ [Instr.slower, .faster]) ∧
    ((perform p i b).fault ≠ b.fault → i ∈ [Instr.onef, .oner] ∧ b.mode = 0b11#2) := by
  cases i
  case onef =>
    obtain ⟨hmode, htint, hfault⟩ := runSingle_frame p .forward b
    simpa [perform, onef, hmode, htint] using hfault
  case oner =>
    obtain ⟨hmode, htint, hfault⟩ := runSingle_frame p .reverse b
    simpa [perform, oner, hmode, htint] using hfault
  case runf | runr => simp [perform, runf, runr]
  case mwave | mfull | mhalf => simp [perform, mwave, mfull, mhalf]
  case stop | slower | faster => simp [perform]

/-- A command's byte runs the command, unless the block is halted (R52). -/
theorem receive_of_decode_eq_instr (p : Params) {byte : Byte} {i : Instr} (h : decode byte = .instr i) (b : Block W) :
    receive p byte b = unlessHalted (perform p i) b := by
  simp only [receive, h]

/-- A byte delivered to a block runs the command it decodes to, in a block that is not halted, or changes nothing. -/
theorem receive_cases (p : Params) (byte : Byte) (b : Block W) :
    receive p byte b = b ∨
    ∃ i, decode byte = .instr i ∧ b.fault = false ∧ receive p byte b = perform p i b := by
  cases hdecode : decode byte with
  | ignore => exact .inl (receive_of_decode_eq_ignore p hdecode b)
  | instr i =>
    rw [receive_of_decode_eq_instr p hdecode]
    cases hfault : b.fault with
    | true => exact .inl (unlessHalted_halted _ hfault)
    | false => exact .inr ⟨i, rfl, rfl, unlessHalted_live _ hfault⟩

/-- Settles O31: a command that found the block halted wrote nothing, and one that did not wrote what its effect
writes. -/
theorem commandsWriteOnlyTheirRegisters : Obligations.CommandsWriteOnlyTheirRegisters := by
  unfold Obligations.CommandsWriteOnlyTheirRegisters
  intro i s t hexec
  obtain ⟨hinputs, ⟨-, hblock⟩ | ⟨-, hblock⟩⟩ := exec_cases hexec
  case inl => simp [hinputs, hblock]
  case inr =>
    obtain ⟨htcnt, hpos, hout⟩ := perform_untouched params i s.block
    rw [hblock]
    exact ⟨hinputs, htcnt, hpos, hout, perform_writers params i s.block⟩

end Sys2Proof.Machine
end

section
/-! The invariants of the reachable state (R24, R79, R103): at reset, through every event and along every run. -/

namespace Sys2Proof.Machine

variable {W : Nat} {p : Params} {b : Block W}

/-- A property that every event keeps holds along every trace (R38). -/
theorem applyTrace_keeps {P : Block W → Prop} (hevent : ∀ b e, P b → P (applyEvent p e b)) (es : List Event)
    (hb : P b) : P (applyTrace p es b) := by
  induction es generalizing b with
  | nil => exact hb
  | cons e es ih => exact ih (hevent b e hb)

/-- A property that holds at reset and that every event keeps is kept by every clock cycle. -/
theorem applyCycle_keeps {P : Block W → Prop} (hreset : P (resetBlock p))
    (hevent : ∀ b e, P b → P (applyEvent p e b)) (c : Inputs) (hb : P b) : P (applyCycle p c b) := by
  unfold applyCycle
  split
  · exact hreset
  · exact applyTrace_keeps hevent (cycleEvents c) hb

theorem applyCycles_keeps {P : Block W → Prop} (hreset : P (resetBlock p))
    (hevent : ∀ b e, P b → P (applyEvent p e b)) (cs : List Inputs) (hb : P b) : P (applyCycles p cs b) := by
  induction cs generalizing b with
  | nil => exact hb
  | cons c cs ih => exact ih (applyCycle_keeps hreset hevent c hb)

/-- INIT_INTERVAL fits the width and is at least MIN_INTERVAL, which is at least 1 (R5): hence the bounds of TINT and
TCNT. -/
theorem resetBlock_inv (hp : p.WellFormed W) : (resetBlock p : Block W).Inv p := by
  obtain ⟨-, ⟨hmin, hmax⟩, -, hone, -, -⟩ := hp
  have hinit : (BitVec.ofNat W p.initInterval).toNat = p.initInterval := by
    rw [BitVec.toNat_ofNat]
    exact Nat.mod_eq_of_lt (by have := Nat.two_pow_pos W; omega)
  refine ⟨modeBits_ne_illegal p.resetMode, ?tint, ?tcnt, ?rem, rfl, .inl ⟨rfl, rfl⟩⟩
  case tint => rwa [resetBlock_tint, hinit]
  case tcnt => rw [resetBlock_tcnt, resetTcnt, hinit]; exact hone.trans hmin
  case rem => simp [resetRem]

/-- 'q' never shortens the interval, and 'w' not below its floor (R79). -/
theorem minInterval_le_of_speed (hmin : p.minInterval < 2 ^ W) {tint t : BitVec W} (htint : p.minInterval ≤ tint.toNat)
    (ht : t = slowerInterval p tint ∨ t = fasterInterval p tint) : p.minInterval ≤ t.toNat := by
  rcases ht with rfl | rfl
  · rw [slowerInterval_toNat]; split <;> omega
  · rw [fasterInterval_toNat hmin]; exact le_max_right _ _

theorem perform_inv (hmin : p.minInterval < 2 ^ W) (i : Instr) (hb : b.Inv p) : (perform p i b).Inv p := by
  obtain ⟨hmode, htint, htcnt, hrem, hfault, hout⟩ := hb
  rcases perform_cases p i b with ⟨-, heq⟩ | ⟨-, d, heq⟩ | ⟨-, d, m, -, heq⟩ | ⟨-, hillegal, -⟩ | ⟨-, m, heq⟩ |
    ⟨-, t, ht, heq⟩
  case inr.inr.inr.inl => exact absurd hillegal hmode
  all_goals rw [heq]
  · exact ⟨hmode, htint, htcnt, hrem, hfault, hout⟩
  · exact ⟨hmode, htint, htcnt, hrem, hfault, hout⟩
  · have hcount : (BitVec.ofNat W (modeSteps p.stepsPerRev m)).toNat ≤ 2 * p.stepsPerRev := by
      rw [BitVec.toNat_ofNat]
      exact (Nat.mod_le _ _).trans (modeSteps_le _ m)
    exact ⟨hmode, htint, htcnt, hcount, hfault, hout⟩
  · exact ⟨modeBits_ne_illegal m, htint, htcnt, hrem, hfault, hout⟩
  · exact ⟨hmode, minInterval_le_of_speed hmin htint ht, htcnt, hrem, hfault, hout⟩

/-- The word of a drive mode at POS is what some table holds there. -/
theorem outFromRom_of_out_eq {m : DriveMode} (h : b.out = romWord p.rom m b.pos) : b.OutFromRom p := by
  cases m
  · exact .inr (.inl h)
  · exact .inr (.inr (.inl h))
  · exact .inr (.inr (.inr h))

/-- A divider that has not expired stays above 0, and a reload takes TINT, which is at least MIN_INTERVAL (R103). -/
theorem tick_inv (hone : 1 ≤ p.minInterval) (hb : b.Inv p) : (tick p b).Inv p := by
  obtain ⟨hmode, htint, htcnt, hrem, hfault, hout⟩ := hb
  have hreload : 1 ≤ b.tint.toNat := hone.trans htint
  rcases tick_cases p b with ⟨-, heq⟩ | ⟨-, -, hcount, heq⟩ | ⟨-, -, -, heq⟩ | ⟨m, -, ⟨-, hstep⟩, heq⟩ |
    ⟨hillegal, -, -⟩
  case inr.inr.inr.inr => exact absurd hillegal hmode
  all_goals rw [heq]
  · exact ⟨hmode, htint, htcnt, hrem, hfault, hout⟩
  · exact ⟨hmode, htint, Nat.pos_of_ne_zero (BitVec.toNat_ne_iff_ne.mpr hcount), hrem, hfault, hout⟩
  · exact ⟨hmode, htint, hreload, hrem, hfault, hout⟩
  · refine ⟨hmode, htint, hreload, ?rem, hfault, outFromRom_of_out_eq rfl⟩
    show (if b.rot = .single then countDown b.rem else b.rem).toNat ≤ _
    split
    case isFalse => exact hrem
    case isTrue hrot =>
      have hpos : 0 < b.rem.toNat := Nat.pos_of_ne_zero (BitVec.toNat_ne_iff_ne.mpr (by simpa [hrot] using hstep))
      rw [countDown_toNat hpos]
      omega

theorem applyEvent_inv (hp : p.WellFormed W) (b : Block W) (e : Event) (hb : b.Inv p) : (applyEvent p e b).Inv p := by
  obtain ⟨-, ⟨hmin, hmax⟩, -, hone, -, -⟩ := hp
  cases e with
  | tick => exact tick_inv hone hb
  | cmd byte =>
    have hfloor : p.minInterval < 2 ^ W := by have := Nat.two_pow_pos W; omega
    rcases receive_cases p byte b with heq | ⟨i, -, -, heq⟩
    · rwa [applyEvent, heq]
    · rw [applyEvent, heq]; exact perform_inv hfloor i hb

/-- Settles O46: reset has the invariants and every event keeps them, so every clock cycle keeps them, and so does every
run. -/
theorem invariantsForAllParameters : Obligations.InvariantsForAllParameters := by
  unfold Obligations.InvariantsForAllParameters
  intro W p hp
  exact ⟨resetBlock_inv hp, applyEvent_inv hp,
    fun cs => applyCycles_keeps (resetBlock_inv hp) (applyEvent_inv hp) cs (resetBlock_inv hp)⟩

/-- Settles O1: the values in force are closed numbers and words, which the constraints and the laws of the ROM are
decided on. -/
theorem parametersInForceAreAdmissible : Obligations.ParametersInForceAreAdmissible := by
  unfold Obligations.ParametersInForceAreAdmissible
  decide

/-- Settles O44: the parameters in force are admissible, and reset has the invariants at all such parameters. -/
theorem invariantsHoldAtReset : Obligations.InvariantsHoldAtReset := by
  unfold Obligations.InvariantsHoldAtReset
  exact resetBlock_inv parametersInForceAreAdmissible

/-- Settles O45: a step that changes the block is one clock cycle, a reset or a list of events. -/
theorem stepKeepsInvariants : Obligations.StepKeepsInvariants := by
  unfold Obligations.StepKeepsInvariants
  intro s t hs hstep
  rcases step_cases hstep with ⟨-, rfl⟩ | ⟨c, -, hblock⟩
  · exact hs
  · have hp : params.WellFormed Config.W := parametersInForceAreAdmissible
    rw [State.Inv, hblock]
    exact applyCycle_keeps (resetBlock_inv hp) (applyEvent_inv hp) c hs

end Sys2Proof.Machine
end

section
/-! The speed commands repeated and undone (R79, S7): TINT as a number after any number of 'w', and after 'q' and 'w' in
either order. -/

namespace Sys2Proof.Machine

variable {W : Nat} {p : Params} {b : Block W}

/-- One press takes one SPEED_STEP off, and the clamp of an earlier press is undone by no later one. -/
theorem applyTrace_replicate_faster (hmin : p.minInterval < 2 ^ W) (n : Nat) (hfault : b.fault = false)
    (htint : p.minInterval ≤ b.tint.toNat) :
    ∃ v : BitVec W, v.toNat = max (b.tint.toNat - n * p.speedStep) p.minInterval ∧
      applyTrace p (List.replicate n (.cmd (encode .faster))) b = { b with tint := v } := by
  induction n generalizing b with
  | zero => exact ⟨b.tint, by omega, rfl⟩
  | succ n ih =>
    have hpress : (faster p b).tint.toNat = max (b.tint.toNat - p.speedStep) p.minInterval :=
      fasterInterval_toNat hmin b.tint
    obtain ⟨v, hv, htrace⟩ := ih (b := faster p b) hfault (by omega)
    refine ⟨v, by rw [hv, hpress, Nat.succ_mul]; omega, ?_⟩
    rw [List.replicate_succ, applyTrace, applyEvent, receive_of_decode_eq_instr p (decode_encode .faster),
      unlessHalted_live _ hfault]
    exact htrace

/-- Settles O18: by induction on the presses, each of which moves TINT to the maximum of R78. -/
theorem repeatedFasterReachesFloor : Obligations.RepeatedFasterReachesFloor := by
  unfold Obligations.RepeatedFasterReachesFloor
  intro W p hmin b n hfault htint
  exact applyTrace_replicate_faster hmin n hfault htint

theorem fasterInterval_slowerInterval {tint : BitVec W} (hmin : p.minInterval ≤ tint.toNat)
    (hfits : tint.toNat + p.speedStep ≤ 2 ^ W - 1) : fasterInterval p (slowerInterval p tint) = tint := by
  apply BitVec.eq_of_toNat_eq
  rw [fasterInterval_toNat (hmin.trans_lt tint.isLt), slowerInterval_toNat, if_pos hfits]
  omega

theorem slowerInterval_fasterInterval {tint : BitVec W} (hfloor : p.speedStep + p.minInterval ≤ tint.toNat) :
    slowerInterval p (fasterInterval p tint) = tint := by
  have hlt := tint.isLt
  have hfaster : (fasterInterval p tint).toNat = tint.toNat - p.speedStep := by
    rw [fasterInterval_toNat (by omega)]
    omega
  apply BitVec.eq_of_toNat_eq
  rw [slowerInterval_toNat, hfaster, if_pos (by omega)]
  omega

/-- Settles O19: both orders on the interval, where the first command's bound did not intervene. -/
theorem slowerAndFasterUndoEachOther : Obligations.SlowerAndFasterUndoEachOther := by
  unfold Obligations.SlowerAndFasterUndoEachOther
  intro W p b
  refine ⟨fun hmin hfits => ?slowerFirst, fun hfloor => ?fasterFirst⟩
  case slowerFirst => rw [faster, slower_tint, fasterInterval_slowerInterval hmin hfits, slower]
  case fasterFirst => rw [slower, faster_tint, slowerInterval_fasterInterval hfloor, faster]

end Sys2Proof.Machine
end

section
/-! Positions after a number of steps in one direction (R65), and neighbouring words of the ROM (R30). -/

namespace Sys2Proof.Machine

variable {W : Nat} {p : Params} {b : Block W} {m : DriveMode}

/-- The position a number of steps on in one direction, modulo 8 (R13, R65). -/
def advanceBy (d : Direction) (k : Nat) (pos : Position) : Position :=
  if d = .forward then pos + BitVec.ofNat 3 k else pos - BitVec.ofNat 3 k

theorem advanceBy_one (d : Direction) (pos : Position) : advanceBy d 1 pos = advance d pos := by
  cases d <;> rfl

theorem advanceBy_zero (d : Direction) (pos : Position) : advanceBy d 0 pos = pos := by
  cases d with
  | forward => exact BitVec.add_zero pos
  | reverse => exact BitVec.sub_zero pos

/-- `advanceBy` is `advance` repeated. -/
theorem advanceBy_succ (d : Direction) (k : Nat) (pos : Position) :
    advanceBy d (k + 1) pos = advance d (advanceBy d k pos) := by
  cases d with
  | forward => simp only [advanceBy, advance, if_true, BitVec.ofNat_add, BitVec.add_assoc]
  | reverse => simp only [advanceBy, advance, reduceCtorEq, if_false, BitVec.ofNat_add, sub_add_eq_sub_sub]

theorem advance_advance_of_ne {d e : Direction} (h : d ≠ e) (pos : Position) : advance e (advance d pos) = pos := by
  cases d <;> cases e
  case forward.reverse => exact BitVec.add_sub_cancel pos 1#3
  case reverse.forward => exact BitVec.sub_add_cancel pos 1#3
  case forward.forward | reverse.reverse => exact absurd rfl h

/-- Eight steps in one direction add or subtract 8, which is 0 modulo 8. -/
theorem advanceBy_eight (d : Direction) (pos : Position) : advanceBy d 8 pos = pos := by
  cases d with
  | forward => exact BitVec.add_zero pos
  | reverse => exact BitVec.sub_zero pos

/-- A step in the other direction undoes the move of POS, whatever stands in OUT (R65). -/
theorem motorStep_back (p : Params) {d e : Direction} (hde : d ≠ e) (hmode : b.mode = modeBits m) (w : Pattern) :
    motorStep p { b with dir := e, pos := advance d b.pos, out := w } =
      some { b with dir := e, out := romWord p.rom m b.pos } := by
  rw [motorStep_modeBits p (b := { b with dir := e, pos := advance d b.pos, out := w }) hmode]
  simp only [advance_advance_of_ne hde]

/-- Settles O21: the second step undoes the move of POS and writes the word at the old position; eight advances are a
move by 8. -/
theorem stepRoundTrip : Obligations.StepRoundTrip := by
  unfold Obligations.StepRoundTrip
  refine ⟨fun W p b m hmode d e hde => ⟨_, motorStep_modeBits p hmode, ?back⟩, fun d pos => ?eight⟩
  case back =>
    exact motorStep_back p hde hmode _
  case eight =>
    have height := advanceBy_eight d pos
    simpa only [advanceBy_succ, advanceBy_zero] using height

/-- In a table that repeats after four words the word at a position is one of the first four (law 1 of R30). -/
theorem romWord_eq_mod_four (hper : p.TablePeriodic m) (pos : Position) :
    romWord p.rom m pos = romWord p.rom m (BitVec.ofNat 3 (pos.toNat % 4)) := by
  have hlt := pos.isLt
  have hself : BitVec.ofNat 3 pos.toNat = pos := by rw [BitVec.ofNat_toNat, BitVec.setWidth_eq]
  obtain hlow | hhigh := Nat.lt_or_ge pos.toNat 4
  case inl => rw [Nat.mod_eq_of_lt hlow, hself]
  case inr =>
    have hword := hper ⟨pos.toNat - 4, by omega⟩
    simp only [Nat.sub_add_cancel hhigh, hself] at hword
    rw [hword, show pos.toNat % 4 = pos.toNat - 4 by omega]

/-- Where a table's words depend on the position modulo `n` only and its first `n` words are different, words at
positions that differ modulo `n` are different. -/
theorem romWord_ne_of_mod_ne {n : Nat} (hn : 0 < n)
    (hmod : ∀ pos, romWord p.rom m pos = romWord p.rom m (BitVec.ofNat 3 (pos.toNat % n)))
    (hdist : p.TableDistinct m n) {pos pos' : Position} (hne : pos.toNat % n ≠ pos'.toNat % n) :
    romWord p.rom m pos ≠ romWord p.rom m pos' := by
  intro heq
  rw [hmod pos, hmod pos'] at heq
  exact hne (Fin.mk.inj (hdist ⟨_, Nat.mod_lt _ hn⟩ ⟨_, Nat.mod_lt _ hn⟩ heq))

/-- The last paragraph of R30, for one table at a time: four different words twice over, or eight different words. -/
theorem romWord_ne_next (hrom : p.RomOk) (m : DriveMode) (pos : Position) :
    romWord p.rom m pos ≠ romWord p.rom m (pos + 1#3) := by
  obtain ⟨hwavePer, hfullPer, hwaveDist, hfullDist, hhalfDist⟩ := hrom
  have hnext : (pos + 1#3).toNat = (pos.toNat + 1) % 8 := advance_forward_toNat pos
  cases m
  case wave => exact romWord_ne_of_mod_ne (by omega) (romWord_eq_mod_four hwavePer) hwaveDist (by omega)
  case fullStep => exact romWord_ne_of_mod_ne (by omega) (romWord_eq_mod_four hfullPer) hfullDist (by omega)
  case halfStep =>
    refine romWord_ne_of_mod_ne (n := 8) (by omega) (fun q => ?_) hhalfDist (by omega)
    rw [Nat.mod_eq_of_lt q.isLt, BitVec.ofNat_toNat, BitVec.setWidth_eq]

/-- Both directions: the neighbour below has this position as its neighbour above. -/
theorem romWord_advance_ne (hrom : p.RomOk) (m : DriveMode) (d : Direction) (pos : Position) :
    romWord p.rom m (advance d pos) ≠ romWord p.rom m pos := by
  cases d with
  | forward => exact (romWord_ne_next hrom m pos).symm
  | reverse =>
    have h := romWord_ne_next hrom m (advance .reverse pos)
    rwa [show advance .reverse pos + 1#3 = pos from BitVec.sub_add_cancel pos 1#3] at h

end Sys2Proof.Machine
end

section
/-! The registers after a number of steps, one per expiry (R60, R62, R66), and the ticks that lead there. -/

namespace Sys2Proof.Machine

variable {W : Nat} {p : Params} {b : Block W} {m : DriveMode}

/-- The block at the expiry that performs its `k`-th step in drive mode `m`: TCNT reloaded, REM lower by `k` in a single
rotation, POS moved by `k`, and OUT the word there. -/
def Block.afterSteps (p : Params) (m : DriveMode) (k : Nat) (b : Block W) : Block W :=
  { b with
    tcnt := b.tint
    rem := if b.rot = .single then BitVec.ofNat W (b.rem.toNat - k) else b.rem
    pos := advanceBy b.dir k b.pos
    out := romWord p.rom m (advanceBy b.dir k b.pos) }

/-- The block has `k` steps left to make: without a bound, or in a single rotation at most REM. -/
abbrev Block.StepsLeft (k : Nat) (b : Block W) : Prop := b.rot = .continuous ∨ k ≤ b.rem.toNat

theorem toNat_ofNat_toNat_sub (c : BitVec W) (k : Nat) : (BitVec.ofNat W (c.toNat - k)).toNat = c.toNat - k := by
  rw [BitVec.toNat_ofNat, Nat.mod_eq_of_lt ((Nat.sub_le _ _).trans_lt c.isLt)]

/-- Steps add up: one step more from the block after `k`. -/
theorem afterSteps_one_afterSteps (p : Params) (m : DriveMode) (k : Nat) (b : Block W) :
    (b.afterSteps p m k).afterSteps p m 1 = b.afterSteps p m (k + 1) := by
  cases hrot : b.rot <;>
  simp only [Block.afterSteps, hrot, reduceCtorEq, if_true, if_false, advanceBy_succ, advanceBy_zero,
    toNat_ofNat_toNat_sub, Nat.sub_sub]

/-- An expiry with a step left, in a drive mode, is one step. -/
theorem expire_of_stepsLeft (p : Params) (hmode : b.mode = modeBits m) (hleft : b.StepsLeft 1) :
    expire p b = b.afterSteps p m 1 := by
  cases hrot : b.rot with
  | continuous =>
    simp only [expire_continuous p hmode hrot, Block.afterSteps, hrot, reduceCtorEq, if_false, advanceBy_one]
  | single =>
    have hrem : 0 < b.rem.toNat := hleft.resolve_left (by simp [hrot])
    rw [expire_single p hmode hrot (BitVec.toNat_ne_iff_ne.mp hrem.ne'), countDown_eq_ofNat_pred hrem]
    simp only [Block.afterSteps, hrot, if_true, advanceBy_one]

theorem stepDue_iff : b.StepDue ↔ b.Expiring ∧ b.StepsLeft 1 := by
  have hrem : b.rem ≠ 0#W ↔ 1 ≤ b.rem.toNat := by
    rw [← BitVec.toNat_ne_iff_ne, BitVec.toNat_ofNat, Nat.zero_mod, Nat.one_le_iff_ne_zero]
  rw [Block.StepDue, hrem]

/-- The tick at which a step is due, in a drive mode (R60). -/
theorem tick_of_stepDue (p : Params) (hmode : b.mode = modeBits m) (hdue : b.StepDue) :
    tick p b = b.afterSteps p m 1 := by
  obtain ⟨hexp, hleft⟩ := stepDue_iff.mp hdue
  rw [tick_of_expiring p hexp, expire_of_stepsLeft p hmode hleft]

/-- Before the divider expires ticks only count down (R61, cases 1 and 2). -/
theorem ticks_of_lt_tcnt (p : Params) (hfault : b.fault = false) (hrun : b.run = .running) {k : Nat}
    (hk : k < b.tcnt.toNat) : ticks p k b = { b with tcnt := BitVec.ofNat W (b.tcnt.toNat - k) } := by
  induction k with
  | zero => rw [ticks, Nat.sub_zero, BitVec.ofNat_toNat, BitVec.setWidth_eq]
  | succ k ih =>
    have hcount : countDown (BitVec.ofNat W (b.tcnt.toNat - k)) = BitVec.ofNat W (b.tcnt.toNat - (k + 1)) := by
      rw [countDown_eq_ofNat_pred (by rw [toNat_ofNat_toNat_sub]; omega), toNat_ofNat_toNat_sub, Nat.sub_sub]
    have hne : countDown (BitVec.ofNat W (b.tcnt.toNat - k)) ≠ 0#W := by
      rw [hcount, ← BitVec.toNat_ne_iff_ne, toNat_ofNat_toNat_sub, BitVec.toNat_ofNat, Nat.zero_mod]
      omega
    rw [ticks_succ, ih (by omega),
      tick_of_counting p (b := { b with tcnt := BitVec.ofNat W (b.tcnt.toNat - k) }) hfault hrun hne]
    simp only [hcount]

/-- The TCNT-th tick finds TCNT = 1 and is the first expiry, whatever TINT is. -/
theorem ticks_tcnt (p : Params) (hfault : b.fault = false) (hrun : b.run = .running) (htcnt : 1 ≤ b.tcnt.toNat) :
    ticks p b.tcnt.toNat b = expire p { b with tcnt := 1#W } := by
  obtain ⟨k, hk⟩ := Nat.exists_eq_add_of_le' htcnt
  have hone : b.tcnt.toNat - k = 1 := by omega
  have hexp : ({ b with tcnt := 1#W } : Block W).Expiring := ⟨hfault, hrun, BitVec.sub_self 1#W⟩
  rw [hk, ticks_succ, ticks_of_lt_tcnt p hfault hrun (by omega), hone, tick_of_expiring p hexp]

/-- The first step of a running block, at the TCNT-th tick. -/
theorem ticks_tcnt_of_stepsLeft (p : Params) (hfault : b.fault = false) (hrun : b.run = .running)
    (hmode : b.mode = modeBits m) (htcnt : 1 ≤ b.tcnt.toNat) (hleft : b.StepsLeft 1) :
    ticks p b.tcnt.toNat b = b.afterSteps p m 1 := by
  rw [ticks_tcnt p hfault hrun htcnt, expire_of_stepsLeft (b := { b with tcnt := 1#W }) p hmode hleft, Block.afterSteps,
    Block.afterSteps]

/-- After the first step the others follow TINT ticks apart, as long as steps are left (R62, R66). -/
theorem ticks_tcnt_add_mul_tint (p : Params) (hfault : b.fault = false) (hrun : b.run = .running)
    (hmode : b.mode = modeBits m) (htcnt : 1 ≤ b.tcnt.toNat) (htint : 1 ≤ b.tint.toNat) {n : Nat}
    (hleft : b.StepsLeft (n + 1)) :
    ticks p (b.tcnt.toNat + n * b.tint.toNat) b = b.afterSteps p m (n + 1) := by
  induction n with
  | zero => rw [Nat.zero_mul]; exact ticks_tcnt_of_stepsLeft p hfault hrun hmode htcnt hleft
  | succ n ih =>
    have hnext : (b.afterSteps p m (n + 1)).StepsLeft 1 := by
      cases hrot : b.rot with
      | continuous => exact .inl hrot
      | single =>
        have hrem : n + 2 ≤ b.rem.toNat := hleft.resolve_left (by simp [hrot])
        refine .inr ?_
        simp only [Block.afterSteps, hrot, if_true, toNat_ofNat_toNat_sub]
        omega
    rw [Nat.succ_mul, ← Nat.add_assoc, ticks_add, ih (hleft.imp_right (by omega)),
      ← afterSteps_one_afterSteps p m (n + 1)]
    exact ticks_tcnt_of_stepsLeft (b := b.afterSteps p m (n + 1)) p hfault hrun hmode htint hnext

/-- The registers after `k` unbounded steps (R66). -/
theorem afterSteps_of_continuous (p : Params) (m : DriveMode) (k : Nat) (hrot : b.rot = .continuous) :
    b.afterSteps p m k = { b with
      tcnt := b.tint, pos := advanceBy b.dir k b.pos, out := romWord p.rom m (advanceBy b.dir k b.pos) } := by
  simp only [Block.afterSteps, hrot, reduceCtorEq, if_false]

/-- The registers after `k` steps of a single rotation (R62). -/
theorem afterSteps_of_single (p : Params) (m : DriveMode) (k : Nat) (hrot : b.rot = .single) :
    b.afterSteps p m k = { b with
      tcnt := b.tint, rem := BitVec.ofNat W (b.rem.toNat - k), pos := advanceBy b.dir k b.pos
      out := romWord p.rom m (advanceBy b.dir k b.pos) } := by
  simp only [Block.afterSteps, hrot, if_true]

/-- With no steps left ticks write TCNT alone, for ever (R62, R105). -/
theorem ticks_of_coasting (p : Params) (hfault : b.fault = false) (hrun : b.run = .running) (hrot : b.rot = .single)
    (hrem : b.rem = 0#W) (n : Nat) : ∃ v : BitVec W, ticks p n b = { b with tcnt := v } := by
  induction n with
  | zero => exact ⟨b.tcnt, rfl⟩
  | succ n ih =>
    obtain ⟨v, hv⟩ := ih
    rw [ticks_succ, hv, tick_of_running p (b := { b with tcnt := v }) hfault hrun]
    split
    · exact ⟨b.tint, expire_coasting (b := { b with tcnt := v }) p hrot hrem⟩
    · exact ⟨countDown v, rfl⟩

theorem ticks_tcnt_of_coasting (p : Params) (hfault : b.fault = false) (hrun : b.run = .running)
    (hrot : b.rot = .single) (hrem : b.rem = 0#W) (htcnt : 1 ≤ b.tcnt.toNat) :
    ticks p b.tcnt.toNat b = { b with tcnt := b.tint } := by
  rw [ticks_tcnt p hfault hrun htcnt, expire_coasting (b := { b with tcnt := 1#W }) p hrot hrem]

/-- In a drive mode every expiry reloads the divider, with a step or without (R61). -/
theorem ticks_tcnt_tcnt (p : Params) (hfault : b.fault = false) (hrun : b.run = .running) (hmode : b.LegalMode)
    (htcnt : 1 ≤ b.tcnt.toNat) : (ticks p b.tcnt.toNat b).tcnt = b.tint := by
  obtain ⟨m, hm⟩ := (mode_cases b.mode).resolve_right hmode
  by_cases hleft : b.StepsLeft 1
  case pos => rw [ticks_tcnt_of_stepsLeft p hfault hrun hm htcnt hleft, Block.afterSteps]
  case neg =>
    obtain ⟨hrot, hrem⟩ := not_or.mp hleft
    have hsingle : b.rot = .single := by cases h : b.rot <;> simp_all
    have hzero : b.rem = 0#W := BitVec.eq_of_toNat_eq (by simpa using hrem)
    rw [ticks_tcnt_of_coasting p hfault hrun hsingle hzero htcnt]

end Sys2Proof.Machine
end

section
/-! Steps in time: when a running block steps, how often, and when it stops stepping (R61, R62, R66, R105 to R108). -/

namespace Sys2Proof.Machine

variable {W : Nat}

/-- Settles O7: a due step writes the word at a neighbouring position of the table whose word stood in OUT. -/
theorem everyStepChangesOut : Obligations.EveryStepChangesOut := by
  unfold Obligations.EveryStepChangesOut
  intro W p hrom
  refine ⟨romWord_ne_next hrom, fun b m hdue hmode hout => ?_⟩
  rw [tick_of_stepDue p hmode hdue, Block.afterSteps, hout, advanceBy_one]
  exact romWord_advance_ne hrom m b.dir b.pos

/-- Settles O23: the countdown, and the first step at its end. -/
theorem firstExpiryAtTcntTicks : Obligations.FirstExpiryAtTcntTicks := by
  unfold Obligations.FirstExpiryAtTcntTicks
  intro W p b hfault hrun
  refine ⟨fun k hk => ⟨_, toNat_ofNat_toNat_sub b.tcnt k, ticks_of_lt_tcnt p hfault hrun hk⟩,
    fun htcnt hrot m hmode => ?_⟩
  rw [ticks_tcnt_of_stepsLeft p hfault hrun hmode htcnt (.inl hrot), afterSteps_of_continuous p m 1 hrot, advanceBy_one]

/-- Settles O24: in Continuous mode a step is always left. -/
theorem stepsAreTintTicksApart : Obligations.StepsAreTintTicksApart := by
  unfold Obligations.StepsAreTintTicksApart
  intro W p b m hfault hrun hrot hmode htcnt htint n
  refine ⟨advanceBy b.dir (n + 1) b.pos, rfl, ?_⟩
  rw [ticks_tcnt_add_mul_tint p hfault hrun hmode htcnt htint (.inl hrot), afterSteps_of_continuous p m _ hrot]

/-- Settles O25: the `k`-th step of the rotation while `k` is at most REM; after the last REM is 0, and the block
coasts. -/
theorem singleRotationMakesExactlyItsSteps : Obligations.SingleRotationMakesExactlyItsSteps := by
  unfold Obligations.SingleRotationMakesExactlyItsSteps
  intro W p b m hfault hrun hrot hmode htcnt htint k hk hrem
  obtain ⟨n, rfl⟩ := Nat.exists_eq_add_of_le' hk
  have hsteps := ticks_tcnt_add_mul_tint p hfault hrun hmode htcnt htint (.inr hrem)
  rw [afterSteps_of_single p m _ hrot] at hsteps
  refine ⟨advanceBy b.dir (n + 1) b.pos, _, rfl, toNat_ofNat_toNat_sub b.rem (n + 1), hsteps, fun hlast j => ?_⟩
  rw [Nat.add_sub_cancel, ticks_add, hsteps, ← hlast, Nat.sub_self]
  obtain ⟨v, hv⟩ := ticks_of_coasting p (b := { b with
    tcnt := b.tint, rem := 0#W, pos := advanceBy b.dir (n + 1) b.pos
    out := romWord p.rom m (advanceBy b.dir (n + 1) b.pos) }) hfault hrun hrot rfl j
  exact ⟨v, hv⟩

/-- Settles O26: any number of ticks, and the reload at the TCNT-th. -/
theorem coastingChangesOnlyTcnt : Obligations.CoastingChangesOnlyTcnt := by
  unfold Obligations.CoastingChangesOnlyTcnt
  intro W p b hfault hrun hrot hrem
  exact ⟨ticks_of_coasting p hfault hrun hrot hrem, ticks_tcnt_of_coasting p hfault hrun hrot hrem⟩

/-- A start in a drive mode leaves the block running in the command's direction with a step left (R68 to R71); a
rotation counts at least one step, since STEPS_PER_REV is at least 1 and fits the width (R5). -/
theorem perform_start (p : Params) {b : Block W} {m : DriveMode} (hmode : b.mode = modeBits m) {i : Instr}
    {d : Direction} (hi : (i = .runf ∧ d = .forward) ∨ (i = .runr ∧ d = .reverse) ∨
      (i = .onef ∧ d = .forward ∧ p.StepsPerRevOk W) ∨ (i = .oner ∧ d = .reverse ∧ p.StepsPerRevOk W)) :
    (perform p i b).run = .running ∧ (perform p i b).dir = d ∧ (perform p i b).StepsLeft 1 ∧
    (perform p i b).mode = b.mode ∧ (perform p i b).fault = b.fault := by
  have hcount : p.StepsPerRevOk W → 1 ≤ (BitVec.ofNat W (modeSteps p.stepsPerRev m)).toNat := by
    rintro ⟨hone, hfits⟩
    have hle := modeSteps_le p.stepsPerRev m
    have hpos : 1 ≤ modeSteps p.stepsPerRev m := by cases m <;> simp only [modeSteps] <;> omega
    have := Nat.two_pow_pos W
    rwa [BitVec.toNat_ofNat, Nat.mod_eq_of_lt (by omega)]
  rcases hi with ⟨rfl, rfl⟩ | ⟨rfl, rfl⟩ | ⟨rfl, rfl, hp⟩ | ⟨rfl, rfl, hp⟩
  · exact ⟨rfl, rfl, .inl rfl, rfl, rfl⟩
  · exact ⟨rfl, rfl, .inl rfl, rfl, rfl⟩
  · rw [perform, onef, runSingle_modeBits p .forward hmode]
    exact ⟨rfl, rfl, .inr (hcount hp), rfl, rfl⟩
  · rw [perform, oner, runSingle_modeBits p .reverse hmode]
    exact ⟨rfl, rfl, .inr (hcount hp), rfl, rfl⟩

/-- Settles O27: the command writes neither TCNT nor POS nor OUT, so the ticks after it are those of a running block
that has a step left. -/
theorem startDoesNotRestartDivider : Obligations.StartDoesNotRestartDivider := by
  unfold Obligations.StartDoesNotRestartDivider
  intro s m hfault hmode htcnt i d hi
  obtain ⟨hrun, hdir, hleft, hmode', hfault'⟩ := perform_start params hmode hi
  obtain ⟨htcnt', hpos, hout⟩ := perform_untouched params i s.block
  have hstep := ticks_tcnt_of_stepsLeft params (hfault'.trans hfault) hrun (hmode'.trans hmode) (htcnt' ▸ htcnt) hleft
  rw [htcnt'] at hstep
  refine ⟨_, exec_live i hfault, htcnt', fun k hk => ?countdown, ?pos, ?out⟩
  case countdown =>
    rw [State.withBlock_block, ticks_of_lt_tcnt params (hfault'.trans hfault) hrun (htcnt' ▸ hk)]
    exact ⟨hpos, hout⟩
  case pos => rw [State.withBlock_block, hstep, Block.afterSteps, advanceBy_one, hdir, hpos]
  case out => rw [State.withBlock_block, hstep, Block.afterSteps, advanceBy_one, hdir, hpos]

/-- A speed command writes TINT and nothing else. -/
theorem perform_speed (p : Params) {i : Instr} (hi : i = .slower ∨ i = .faster) (b : Block W) :
    ∃ t, perform p i b = { b with tint := t } := by
  rcases hi with rfl | rfl
  exacts [⟨_, rfl⟩, ⟨_, rfl⟩]

/-- Settles O28: the countdown reads TCNT, which the command left alone, and the reload reads the TINT that it wrote. -/
theorem speedCommandActsAtNextReload : Obligations.SpeedCommandActsAtNextReload := by
  unfold Obligations.SpeedCommandActsAtNextReload
  intro W p b hfault hrun hmode i hi
  obtain ⟨t, ht⟩ := perform_speed p hi b
  rw [ht]
  exact ⟨fun k hk => ⟨_, toNat_ofNat_toNat_sub b.tcnt k, ticks_of_lt_tcnt p (b := { b with tint := t }) hfault hrun hk⟩,
    fun htcnt => ticks_tcnt_tcnt p (b := { b with tint := t }) hfault hrun hmode htcnt⟩

/-- Settles O29: MODE alone is written, and whether a step is due does not depend on MODE. -/
theorem outLagsTheModeCommand : Obligations.OutLagsTheModeCommand := by
  unfold Obligations.OutLagsTheModeCommand
  intro W p b i m hi
  have hselect : perform p i b = selectMode m b := by
    rcases hi with ⟨rfl, rfl⟩ | ⟨rfl, rfl⟩ | ⟨rfl, rfl⟩ <;> rfl
  rw [hselect]
  refine ⟨selectMode_out m b, selectMode_pos m b, fun hdue => ?_⟩
  rw [tick_of_stepDue p (b := selectMode m b) (selectMode_mode m b) hdue, Block.afterSteps, advanceBy_one]
  exact ⟨rfl, rfl⟩

end Sys2Proof.Machine
end

section
/-! Who writes what in a tick (R21, R93), and the run state as commands and ticks move it (R22, R72). -/

namespace Sys2Proof.Machine

variable {W : Nat}

/-- Settles O32: case by case over what a tick can do. -/
theorem tickWritesOnlyItsRegisters : Obligations.TickWritesOnlyItsRegisters := by
  unfold Obligations.TickWritesOnlyItsRegisters
  intro W p b
  rcases tick_cases p b with ⟨-, heq⟩ | ⟨hfault, hrun, -, heq⟩ | ⟨⟨hfault, hrun, -⟩, -, -, heq⟩ | ⟨m, -, hdue, heq⟩ |
    ⟨hmode, hdue, heq⟩
  case inl => simp [heq]
  case inr.inl => simp [heq, hfault, hrun]
  case inr.inr.inl => simp [heq, hfault, hrun]
  case inr.inr.inr.inl =>
    have ⟨⟨hfault, hrun, _⟩, _⟩ := hdue
    rw [heq]
    exact ⟨rfl, rfl, rfl, rfl, rfl, fun _ => hdue, fun _ => hdue,
      fun hrem => ⟨hdue, Decidable.not_not.mp fun hrot => hrem (if_neg hrot)⟩, fun _ => ⟨hrun, hfault⟩,
      fun hne => absurd rfl hne⟩
  case inr.inr.inr.inr =>
    rw [heq]
    exact ⟨rfl, rfl, rfl, rfl, rfl, fun _ => hdue, fun _ => hdue, fun hne => absurd rfl hne, fun hne => absurd rfl hne,
      fun _ => ⟨hdue, hmode⟩⟩

/-- The run state reads RUN, ROT and REM alone (R22). -/
theorem runState_congr {b c : Block W} (hrun : c.run = b.run) (hrot : c.rot = b.rot) (hrem : c.rem = b.rem) :
    runState c = runState b := by
  simp only [runState, hrun, hrot, hrem]

theorem runState_of_continuous {b : Block W} (hrun : b.run = .running) (hrot : b.rot = .continuous) :
    runState b = .runningContinuous := by
  simp only [runState, hrun, hrot]

theorem runState_of_single {b : Block W} (hrun : b.run = .running) (hrot : b.rot = .single) :
    runState b = .runningSingle b.rem := by
  simp only [runState, hrun, hrot]

theorem eq_of_runState_eq_single {b : Block W} {n : BitVec W} (h : runState b = .runningSingle n) :
    b.rot = .single ∧ b.rem = n := by
  cases hrun : b.run <;> cases hrot : b.rot <;> simp [runState, hrun, hrot] at h
  exact ⟨rfl, h⟩

/-- One rotation in a drive mode, from every run state (R70 to R72). -/
theorem runState_runSingle (p : Params) (d : Direction) {b : Block W} {m : DriveMode} (hmode : b.mode = modeBits m) :
    runState (runSingle p d b) = .runningSingle (BitVec.ofNat W (modeSteps p.stepsPerRev m)) ∧
    (runSingle p d b).dir = d := by
  rw [runSingle_modeBits p d hmode]
  exact ⟨runState_of_single rfl rfl, rfl⟩

/-- The mode and the speed commands write none of the three registers of the run state. -/
theorem runState_perform_of_mode_or_speed (p : Params) {i : Instr}
    (hi : i ∈ [Instr.mwave, .mfull, .mhalf, .slower, .faster]) (b : Block W) :
    runState (perform p i b) = runState b := by
  cases i
  case mwave | mfull | mhalf | slower | faster => rfl
  all_goals simp at hi

/-- A due step of a rotation, in a drive mode, takes one from its number (R62). -/
theorem runState_tick_of_single (p : Params) {b : Block W} {n : BitVec W} (hstate : runState b = .runningSingle n)
    (hdue : b.StepDue) (hmode : b.LegalMode) : runState (tick p b) = .runningSingle (n - 1#W) := by
  obtain ⟨hrot, rfl⟩ := eq_of_runState_eq_single hstate
  obtain ⟨m, hm⟩ := (mode_cases b.mode).resolve_right hmode
  have ⟨⟨_, hrun, _⟩, hleft⟩ := hdue
  have hrem : 0 < b.rem.toNat :=
    Nat.pos_of_ne_zero (BitVec.toNat_ne_iff_ne.mpr (hleft.resolve_left (by simp [hrot])))
  rw [tick_of_stepDue p hm hdue, afterSteps_of_single p m 1 hrot, ← countDown_eq_ofNat_pred hrem]
  exact runState_of_single hrun hrot

/-- Any other tick writes none of the three registers. -/
theorem runState_tick_of_not_single (p : Params) {b : Block W} (h : ¬ (b.StepDue ∧ b.rot = .single)) :
    runState (tick p b) = runState b := by
  obtain ⟨hrun, -, hrot, -, -, -, -, hrem, -, -⟩ := tickWritesOnlyItsRegisters W p b
  exact runState_congr hrun hrot (Decidable.not_not.mp (mt hrem h))

/-- Settles O30: the five run commands from their effects, the other five and TICK from the registers that the run state
reads. -/
theorem runStateTransitions : Obligations.RunStateTransitions := by
  unfold Obligations.RunStateTransitions
  intro W p b
  refine ⟨runState_of_run_stopped (stop_run b), rfl, runState_of_continuous rfl rfl, rfl,
    runState_of_continuous rfl rfl, rfl, fun m hmode => ?rotation, fun i hi => runState_perform_of_mode_or_speed p hi b,
    fun n hstate hdue hmode => runState_tick_of_single p hstate hdue hmode, runState_tick_of_not_single p⟩
  case rotation =>
    obtain ⟨hforward, hfwd⟩ := runState_runSingle p .forward hmode
    obtain ⟨hreverse, hrev⟩ := runState_runSingle p .reverse hmode
    exact ⟨hforward, hfwd, hreverse, hrev⟩

end Sys2Proof.Machine
end

section
/-! One clock cycle without reset as a tick and then a byte (R86 to R89), and what moves the coils in it (R59, R110). -/

namespace Sys2Proof.Machine

variable {W : Nat}

/-- A cycle without reset: the tick's registers, then the command's from those (R89). -/
theorem applyCycle_eq_receive_tick (p : Params) {c : Inputs} (hrst : c.rst = false) (b : Block W) :
    applyCycle p c b =
      if c.cmdValid then receive p c.cmd (if c.tick then tick p b else b) else if c.tick then tick p b else b := by
  rw [applyCycle_of_not_reset p hrst, cycleEvents, hrst]
  cases c.tick <;> cases c.cmdValid <;> rfl

/-- No delivered byte moves the coils (R59). -/
theorem receive_coils (p : Params) (byte : Byte) (b : Block W) :
    (receive p byte b).out = b.out ∧ (receive p byte b).pos = b.pos := by
  rcases receive_cases p byte b with heq | ⟨i, -, -, heq⟩
  · rw [heq]; exact ⟨rfl, rfl⟩
  · obtain ⟨-, hpos, hout⟩ := perform_untouched p i b
    rw [heq]
    exact ⟨hout, hpos⟩

/-- Without a due step no tick moves the coils (R110). -/
theorem tick_coils_of_not_stepDue (p : Params) {b : Block W} (hdue : ¬ b.StepDue) :
    (tick p b).out = b.out ∧ (tick p b).pos = b.pos := by
  obtain ⟨-, -, -, -, -, hpos, hout, -, -, -⟩ := tickWritesOnlyItsRegisters W p b
  exact ⟨Decidable.not_not.mp (mt hout hdue), Decidable.not_not.mp (mt hpos hdue)⟩

theorem applyCycle_coils (p : Params) {c : Inputs} (hrst : c.rst = false) {b : Block W}
    (hdue : ¬ (c.tick = true ∧ b.StepDue)) :
    (applyCycle p c b).out = b.out ∧ (applyCycle p c b).pos = b.pos := by
  have htick : (if c.tick then tick p b else b).out = b.out ∧ (if c.tick then tick p b else b).pos = b.pos := by
    split
    case isTrue hstrobe => exact tick_coils_of_not_stepDue p fun h => hdue ⟨hstrobe, h⟩
    case isFalse => exact ⟨rfl, rfl⟩
  rw [applyCycle_eq_receive_tick p hrst]
  split
  case isTrue =>
    obtain ⟨hout, hpos⟩ := receive_coils p c.cmd (if c.tick then tick p b else b)
    rwa [hout, hpos]
  case isFalse => exact htick

/-- Settles O33: a step that moves the coils is a clock cycle, and neither its command nor a tick without a due step
moves them. -/
theorem onlyResetOrAStepMovesTheCoils : Obligations.OnlyResetOrAStepMovesTheCoils := by
  unfold Obligations.OnlyResetOrAStepMovesTheCoils
  intro s t hstep hmoved
  rcases step_cases hstep with ⟨-, rfl⟩ | ⟨c, hinputs, hblock⟩
  · simp at hmoved
  · refine ⟨c, t.inputs, hinputs, ?_⟩
    by_contra hnone
    obtain ⟨hrst, hdue⟩ := not_or.mp hnone
    obtain ⟨hout, hpos⟩ := applyCycle_coils params (Bool.eq_false_of_not_eq_true hrst) hdue
    rw [hblock, hout, hpos] at hmoved
    simp at hmoved

/-- A cycle that presents a command's byte runs `exec` of it from the registers its tick leaves (R86, R89). -/
theorem step_of_decode_eq_instr {s : State} {c : Inputs} {rest : List Inputs} {i : Instr}
    (hinputs : s.inputs = c :: rest) (hrst : c.rst = false) (hcmd : c.cmdValid = true)
    (hdecode : decode c.cmd = .instr i) :
    step s = exec i { inputs := rest, block := if c.tick then tick params s.block else s.block } := by
  rw [step_cons hinputs, applyCycle_eq_receive_tick params hrst, hcmd, if_pos rfl, exec_eq,
    receive_of_decode_eq_instr params hdecode]
  rfl

/-- Settles O39: the cycle with and without a tick; and a placed word is the byte of its command, whose cycle has no
tick. -/
theorem stepRunsTheDecodedCommand : Obligations.StepRunsTheDecodedCommand := by
  unfold Obligations.StepRunsTheDecodedCommand
  refine ⟨fun s c rest i hinputs hrst hcmd hdecode => ?cycle, fun s i => ?placed⟩
  case cycle =>
    rw [step_of_decode_eq_instr hinputs hrst hcmd hdecode]
    exact ⟨fun htick => by rw [htick]; rfl, fun htick => by rw [htick]; rfl⟩
  case placed =>
    have hbyte : decode (BitVec.ofNat 8 (encode i).toNat) = .instr i := by
      rw [BitVec.ofNat_toNat, BitVec.setWidth_eq, decode_encode]
    exact step_of_decode_eq_instr (s := s.withFetchWord 8 (encode i).toNat) rfl rfl rfl hbyte

/-- Settles O40: the cycle's effect without a command is its tick's, or none. -/
theorem stepRunsTheTick : Obligations.StepRunsTheTick := by
  unfold Obligations.StepRunsTheTick
  refine ⟨fun s c rest hinputs hrst hcmd => ?_, fun s => step_nil⟩
  rw [step_cons hinputs, applyCycle_eq_receive_tick params hrst, hcmd]
  exact ⟨fun htick => by rw [htick]; rfl, fun htick => by rw [htick]; rfl⟩

/-- Settles O43: `exec` answers the command's effect, and `step` the cycle's, or the state itself. -/
theorem everyEventCompletes : Obligations.EveryEventCompletes := by
  unfold Obligations.EveryEventCompletes
  refine ⟨fun i s => ⟨_, exec_eq i s⟩, fun s => ?_⟩
  cases hinputs : s.inputs with
  | nil => exact ⟨_, step_nil hinputs⟩
  | cons c rest => exact ⟨_, step_cons hinputs⟩

end Sys2Proof.Machine
end

section
/-! Runs as sequences of events (R38), and the halted block through a run (R82, R92). -/

namespace Sys2Proof.Machine

variable {W : Nat}

theorem run_succ_of_step_eq_next {M : Host.Core} {s t : M.State} (h : M.step s = .next t) (k : Nat) :
    M.run (k + 1) s = M.run k t := by
  simp only [Host.Core.run, h]

/-- As many steps as there are cycles to come take them all, in order. -/
theorem core_run_length (cs : List Inputs) (b : Block Config.W) :
    Sys2Proof.core.run cs.length { block := b, inputs := cs } =
      .next { block := applyCycles params cs b, inputs := [] } := by
  induction cs generalizing b with
  | nil => rfl
  | cons c cs ih =>
    have hstep : Sys2Proof.core.step { block := b, inputs := c :: cs } =
        .next { block := applyCycle params c b, inputs := cs } :=
      step_cons (s := { block := b, inputs := c :: cs }) rfl
    exact (run_succ_of_step_eq_next hstep cs.length).trans (ih (applyCycle params c b))

/-- Cycles without reset are the trace of all their events. -/
theorem applyCycles_eq_applyTrace (p : Params) {cs : List Inputs} (hrst : ∀ c ∈ cs, c.rst = false) (b : Block W) :
    applyCycles p cs b = applyTrace p (cs.map cycleEvents).flatten b := by
  induction cs generalizing b with
  | nil => rfl
  | cons c cs ih =>
    obtain ⟨hc, hcs⟩ := List.forall_mem_cons.mp hrst
    rw [List.map_cons, List.flatten_cons, applyTrace_append, applyCycles, applyCycle_of_not_reset p hc, ih hcs]

/-- Settles O42: both by induction on the cycles. -/
theorem runsAreSequencesOfEvents : Obligations.RunsAreSequencesOfEvents := by
  unfold Obligations.RunsAreSequencesOfEvents
  exact ⟨fun s => core_run_length s.inputs s.block, fun W p cs b hrst => applyCycles_eq_applyTrace p hrst b⟩

theorem applyEvent_of_halted (p : Params) {b : Block W} (hfault : b.fault = true) (e : Event) :
    applyEvent p e b = b := by
  cases e with
  | tick => exact tick_of_halted_or_stopped p (.inl hfault)
  | cmd byte =>
    rcases receive_cases p byte b with heq | ⟨i, -, hlive, -⟩
    · exact heq
    · simp [hfault] at hlive

/-- Settles O36: no event writes a halted block, so no trace does; and the reset block is not halted. -/
theorem haltedUntilReset : Obligations.HaltedUntilReset := by
  unfold Obligations.HaltedUntilReset
  refine ⟨fun i s hfault => ?command, fun W p b hfault =>
    ⟨applyEvent_of_halted p hfault, fun cs hrst => ?cycles, fun c hrst => ?reset⟩⟩
  case command => rw [exec_eq, unlessHalted_halted _ hfault, State.withBlock_self]
  case cycles =>
    have hkeep : ∀ c e, c = b → applyEvent p e c = b := by
      rintro _ e rfl
      exact applyEvent_of_halted p hfault e
    rw [applyCycles_eq_applyTrace p hrst]
    exact applyTrace_keeps hkeep _ rfl
  case reset => rw [applyCycle_of_reset p hrst, resetBlock_fault]

end Sys2Proof.Machine
end

section
/-! OUT is never read (R18): blocks that agree in every other register do so after every event. -/

namespace Sys2Proof.Machine

variable {W : Nat}

/-- The two blocks agree in every register but OUT. -/
def Block.EqButOut (b c : Block W) : Prop := ∃ w, c = { b with out := w }

theorem Block.EqButOut.refl (b : Block W) : b.EqButOut b := ⟨b.out, rfl⟩

/-- An event's end keeps the agreement: a result is the same for both, and the violation writes FAULT in both. -/
theorem eqButOut_orRaise (b : Block W) (w : Pattern) (r : Option (Block W)) :
    (orRaise b r).EqButOut (orRaise { b with out := w } r) := by
  cases r with
  | none => exact ⟨w, rfl⟩
  | some b' => exact .refl b'

/-- A step overwrites OUT, so an expiry does not read it. -/
theorem eqButOut_expire (p : Params) (b : Block W) (w : Pattern) :
    (expire p b).EqButOut (expire p { b with out := w }) := by
  obtain ⟨mode, run, dir, pos, rot, rem, tint, tcnt, out, fault⟩ := b
  cases rot
  case continuous => exact eqButOut_orRaise _ w _
  case single =>
    by_cases hrem : rem = 0#W
    case pos => exact ⟨w, by simp only [expire, hrem, if_true]⟩
    case neg => simp only [expire, hrem, if_false]; exact eqButOut_orRaise _ w _

/-- The halt reads FAULT alone, and a halted event writes neither block. -/
theorem eqButOut_unlessHalted {f : Block W → Block W} {b : Block W} {w : Pattern}
    (h : (f b).EqButOut (f { b with out := w })) :
    (unlessHalted f b).EqButOut (unlessHalted f { b with out := w }) := by
  unfold unlessHalted
  split
  · exact ⟨w, rfl⟩
  · exact h

theorem eqButOut_tickRunning (p : Params) (b : Block W) (w : Pattern) :
    (tickRunning p b).EqButOut (tickRunning p { b with out := w }) := by
  obtain ⟨mode, run, dir, pos, rot, rem, tint, tcnt, out, fault⟩ := b
  cases run
  case stopped => exact ⟨w, rfl⟩
  case running =>
    simp only [tickRunning]
    split
    · exact eqButOut_expire p _ w
    · exact ⟨w, rfl⟩

theorem eqButOut_perform (p : Params) (i : Instr) (b : Block W) (w : Pattern) :
    (perform p i b).EqButOut (perform p i { b with out := w }) := by
  have hrotation (d : Direction) : (runSingle p d b).EqButOut (runSingle p d { b with out := w }) := by
    obtain ⟨m, hmode⟩ | hmode := mode_cases b.mode
    · rw [runSingle_modeBits p d hmode, runSingle_modeBits p (b := { b with out := w }) d hmode]
      exact ⟨w, rfl⟩
    · rw [runSingle_illegal p d hmode, runSingle_illegal p (b := { b with out := w }) d hmode]
      exact ⟨w, rfl⟩
  cases i
  case onef => exact hrotation .forward
  case oner => exact hrotation .reverse
  all_goals exact ⟨w, rfl⟩

theorem eqButOut_applyEvent (p : Params) (e : Event) {b c : Block W} (h : b.EqButOut c) :
    (applyEvent p e b).EqButOut (applyEvent p e c) := by
  obtain ⟨w, rfl⟩ := h
  cases e with
  | tick => exact eqButOut_unlessHalted (eqButOut_tickRunning p b w)
  | cmd byte =>
    cases hdecode : decode byte with
    | ignore =>
      simp only [applyEvent, receive_of_decode_eq_ignore p hdecode]
      exact ⟨w, rfl⟩
    | instr i =>
      simp only [applyEvent, receive_of_decode_eq_instr p hdecode]
      exact eqButOut_unlessHalted (eqButOut_perform p i b w)

theorem eqButOut_applyTrace (p : Params) (es : List Event) {b c : Block W} (h : b.EqButOut c) :
    (applyTrace p es b).EqButOut (applyTrace p es c) := by
  induction es generalizing b c with
  | nil => exact h
  | cons e es ih => exact ih (eqButOut_applyEvent p e h)

theorem eqButOut_applyCycle (p : Params) (c : Inputs) {b b' : Block W} (h : b.EqButOut b') :
    (applyCycle p c b).EqButOut (applyCycle p c b') := by
  unfold applyCycle
  split
  · exact .refl (resetBlock p)
  · exact eqButOut_applyTrace p (cycleEvents c) h

theorem eqButOut_applyCycles (p : Params) (cs : List Inputs) {b b' : Block W} (h : b.EqButOut b') :
    (applyCycles p cs b).EqButOut (applyCycles p cs b') := by
  induction cs generalizing b b' with
  | nil => exact h
  | cons c cs ih => exact ih (eqButOut_applyCycle p c h)

/-- Settles O34: the agreement in every register but OUT, along the cycles. -/
theorem outIsNeverRead : Obligations.OutIsNeverRead := by
  unfold Obligations.OutIsNeverRead
  intro W p cs b w
  exact eqButOut_applyCycles p cs ⟨w, rfl⟩

end Sys2Proof.Machine
end

section
/-! The registers' bit encodings (R10, R11, R12, R14, R19). -/

namespace Sys2Proof.Machine

/-- The three encodings of drive modes and `0b11` are all the values of MODE. -/
theorem driveMode?_eq_none_iff (x : ModeBits) : driveMode? x = none ↔ x = 0b11#2 := by
  obtain ⟨m, rfl⟩ | rfl := mode_cases x
  · simp only [driveMode?_modeBits, reduceCtorEq, modeBits_ne_illegal]
  · exact iff_of_true rfl rfl

/-- Settles O2: MODE from the two lemmas on its decoding, the flags by their tables. -/
theorem registerBitEncodings : Obligations.RegisterBitEncodings := by
  unfold Obligations.RegisterBitEncodings
  exact ⟨⟨rfl, rfl, rfl⟩, driveMode?_modeBits, driveMode?_eq_none_iff, ⟨rfl, rfl⟩, ⟨rfl, rfl⟩, ⟨rfl, rfl⟩, rfl, rfl⟩

end Sys2Proof.Machine
end
